-- ==== Sys2Proof/Word.lean ====
section
/-! DEFINITION. The block's plain types: bytes, trace words, channels and nine-element register arrays
(rules R10, R21, R34 and R84). -/

namespace Sys2Proof

/-- One byte: a command, a slice element, the serial shift register. -/
abbrev Byte := BitVec 8

/-- One 32-bit trace-event word (R84). -/
abbrev TraceWord := BitVec 32

/-- A channel, and the slice offset of the same number: 0..8 (R60). -/
abbrev Chan := Fin 9

/-- A register array of nine like elements, indexed by `Chan`. -/
abbrev Nine (α : Type) := Vector α 9

end Sys2Proof
end

