-- ==== Sys2Proof/Config.lean ====
section
/-! DEFINITION. The constants and parameters of rules R5 to R7 and R37, and the model's one free value. -/

namespace Sys2Proof

/-- Number of nodes on the bus (R5). -/
@[simp] abbrev N_NODES : Nat := 4
/-- Channels of one node (R5). -/
@[simp] abbrev CH_PER_NODE : Nat := 9
/-- Bytes of one frame, `N_NODES × CH_PER_NODE` (R5). -/
@[simp] abbrev FRAME_BYTES : Nat := 36
/-- The idle pulse in microseconds (R5). -/
@[simp] abbrev IDLE_US : Nat := 1000
/-- The least active pulse of the mapping formula in microseconds (R5). -/
@[simp] abbrev MIN_ACTIVE_US : Nat := 1200
/-- The greatest pulse in microseconds (R5). -/
@[simp] abbrev MAX_US : Nat := 2000
/-- The watchdog's timeout in microseconds (R6, C6: the comparison is strict). -/
@[simp] abbrev SAFETY_TIMEOUT_US : Nat := 200000
/-- Sync edges between two heartbeat toggles (R5, C8). -/
@[simp] abbrev HEARTBEAT_PERIOD : Nat := 20

/-- What is fixed for one node: the parameters of R5 and R7. No operation writes it (R37). -/
structure Config where
  /-- `NODE_ID`, one of 0, 1, 2, 3 (R5); any other value is outside the spec (R37). -/
  nodeId : Fin 4
  /-- `FIFO_DEPTH`, at least 1 (R7). -/
  fifoDepth : Nat
  /-- `PWM_PERIOD_US`, at least 20000 (R7). -/
  pwmPeriodUs : Nat
  /-- `K`, counter ticks per microsecond, positive (R7, R105); it enters no rule. -/
  k : Nat
  /-- `PWM_PHASE0[c]`, the pulse counters at reset, each below the period (R7). -/
  pwmPhase0 : Nine Nat
  /-- `FAULT_HALF_US`, half the period of the fault wave (R7, D11). -/
  faultHalfUs : Nat
  /-- `T_SYNC_MIN_US`, the least high time of the sync input a host must keep (R7, R237). -/
  tSyncMinUs : Nat
  /-- `T_STEP_MAX_US`, OPEN: absent unless a claim about elapsed time supposes a bound (R7, R240). -/
  tStepMaxUs : Option Nat
deriving DecidableEq, Repr

/-- The parameter ranges of R7. DESIGN CHOICE (log 30): the spec gives `FAULT_HALF_US` no lower bound, and the model
asks for at least 1, without which there is no wave. -/
structure Config.Ok (g : Config) : Prop where
  fifoDepth_pos : 1 ≤ g.fifoDepth
  pwmPeriod_ge : 20000 ≤ g.pwmPeriodUs
  k_pos : 1 ≤ g.k
  faultHalf_pos : 1 ≤ g.faultHalfUs
  pwmPhase0_lt : ∀ c : Chan, g.pwmPhase0[c] < g.pwmPeriodUs

/-- The reference values of R7 for the node `n`. DESIGN CHOICE (log 5): they are the spec's own, for its test
vectors, and no statement rests on them. -/
def Config.reference (n : Fin 4) : Config where
  nodeId := n
  fifoDepth := 8
  pwmPeriodUs := 20000
  k := 1
  pwmPhase0 := Vector.replicate 9 0
  faultHalfUs := 100000
  tSyncMinUs := 1
  tStepMaxUs := none

/-- FREE VALUE (log 6): the clock's value `T0` at the `n`-th power-on after the first of the node with that `NODE_ID`.
The spec leaves it unspecified (R30, R40) and has every claim hold for every `T0` (U8). DESIGN CHOICE (log 6): it
depends on the node and on the count of draws alone, so two runs draw alike where a node has drawn equally often. -/
opaque Config.freeT0 : Fin 4 → Nat → Nat

end Sys2Proof
end

