-- ==== Sys2Proof/Syntax.lean ====
section
/-! DEFINITION. The operations: one constructor of `Instr` for each of the 26 rows of `spec/opcode_table.json`
(rules R8, R9 and R88). -/

namespace Sys2Proof

/-- The nine micro-steps the sequencer's `STEP` resolves to (R88). -/
inductive MicroStep where
  | drain | drainx | svc | nosvc | bapply | bend | wdg | capply | cind
deriving DecidableEq, Repr

/-- An operation of the block. -/
inductive Instr where
  /-- `RXB v`: a whole byte arrives (R123). -/
  | rxb (v : Byte)
  /-- `SBIT b`: one rising serial clock edge with data level `b` (R120). -/
  | sbit (b : Bool)
  /-- `CSA`: chip select asserted (R121). -/
  | csa
  /-- `CSD`: chip select deasserted (R121). -/
  | csd
  /-- `SYNC l`: the sync input takes level `l` (R140). -/
  | sync (l : Bool)
  /-- `ADV d`: `d` microseconds pass, `d` not 0 (R179, R90). -/
  | adv (d : BitVec 28)
  /-- `RST`: power-on reset (R181). -/
  | rst
  /-- `STEP`: one micro-step of the sequencer (R175). -/
  | step
  /-- `DRAIN`: pop one byte, count it, filter it (R124). -/
  | drain
  /-- `DRAINX`: the FIFO is empty, step A ends (R126). -/
  | drainx
  /-- `SVC`: consume the edge, stamp the time, take the snapshot (R143). -/
  | svc
  /-- `NOSVC`: no edge to service (R142). -/
  | nosvc
  /-- `BAPPLY`: map one latched byte, write one pulse register (R144). -/
  | bapply
  /-- `BEND`: reset the frame position (R145). -/
  | bend
  /-- `WDG`: the watchdog check (R156). -/
  | wdg
  /-- `CAPPLY`: force one channel to the idle pulse (R157). -/
  | capply
  /-- `CIND`: drive the fault pattern on the status indicator (R158). -/
  | cind
  /-- `CMD.STOP`: the command byte 0 (R82). -/
  | cmdStop
  /-- `CMD.DRIVE v`: a command byte `v` in 1..255 (R82). -/
  | cmdDrive (v : Byte)
  /-- `SERIALWORD`: the eight bits of one byte on the wire (R80). -/
  | serialWord (v : Byte)
  /-- `FRAME`: the 36 bytes of one frame on the wire (R81). -/
  | frame (bytes : Vector Byte 36)
  /-- `SetPulse(i, us)`: `i` in 0..8, `us` any natural number (R100). -/
  | setPulse (i us : Nat)
  /-- `Map(v)` (R110). -/
  | map (v : Byte)
  /-- `EdgeHandler()` (R141). -/
  | edgeHandler
  /-- `FifoPush(v)` (R122). -/
  | fifoPush (v : Byte)
  /-- `PwmAdvance(d)` (R102). -/
  | pwmAdvance (d : BitVec 28)
deriving DecidableEq, Repr

/-- The micro-step as an operation of its own. -/
def MicroStep.instr : MicroStep → Instr
  | .drain => .drain
  | .drainx => .drainx
  | .svc => .svc
  | .nosvc => .nosvc
  | .bapply => .bapply
  | .bend => .bend
  | .wdg => .wdg
  | .capply => .capply
  | .cind => .cind

end Sys2Proof
end

