-- ==== Sys2Proof/WellFormed.lean ====
section
/-! DEFINITION. The operand ranges the spec gives each operation (rules R82, R84, R90 and R100, and the operand
columns of `spec/opcode_table.json`). -/

namespace Sys2Proof

/-- The operands are in the ranges the spec gives. -/
def Instr.wf : Instr → Bool
  | .rxb _ => true
  | .sbit _ => true
  | .csa => true
  | .csd => true
  | .sync _ => true
  | .adv d => d != 0#28
  | .rst => true
  | .step => true
  | .drain => true
  | .drainx => true
  | .svc => true
  | .nosvc => true
  | .bapply => true
  | .bend => true
  | .wdg => true
  | .capply => true
  | .cind => true
  | .cmdStop => true
  | .cmdDrive v => v != 0#8
  | .serialWord _ => true
  | .frame _ => true
  | .setPulse i _ => decide (i < CH_PER_NODE)
  | .map _ => true
  | .edgeHandler => true
  | .fifoPush _ => true
  | .pwmAdvance d => d != 0#28

end Sys2Proof
end

