-- ==== Sys2Proof/Decode.lean ====
section
/-! DEFINITION. The four formats of `30_encoding.md` (trace word R84, command byte R82, serial word R80, frame
R81), the decoder of each, total and rejecting by name, and the encoder. -/

namespace Sys2Proof

/-- Why a code spells no operation. -/
inductive Reject where
  /-- A trace word with `op` in 0x8..0xF (R90). -/
  | reservedOp
  /-- A trace word with a nonzero bit in a field that must be 0 (R90). -/
  | mustBeZero
  /-- `ADV` with `d` = 0 (R90). -/
  | advZero
  /-- A serial word of other than eight samples (R80). -/
  | serialLength
  /-- A frame of other than 36 bytes (R81). -/
  | frameLength
deriving DecidableEq, Repr

/-- A code in one of the formats of `30_encoding.md`. -/
inductive Code where
  /-- A 32-bit trace-event word (R84). -/
  | trace (w : TraceWord)
  /-- A command byte at one frame position (R82). -/
  | command (v : Byte)
  /-- The samples of a serial word, the first sampled first (R80). -/
  | serial (samples : List Bool)
  /-- The bytes of a frame, position 0 first (R81). -/
  | frame (bytes : List Byte)
deriving DecidableEq, Repr

/-! ### Bits -/

/-- `{SR[6:0], b}`: shift left, the new bit enters at bit 0 (R85, R120). -/
def shiftIn (sr : Byte) (b : Bool) : Byte :=
  sr.extractLsb' 0 7 ++ BitVec.ofBool b

/-- The bits of a byte in the order of the wire: sample k is bit 7 − k (R80). -/
def byteBits (v : Byte) : List Bool :=
  [v.getLsbD 7, v.getLsbD 6, v.getLsbD 5, v.getLsbD 4, v.getLsbD 3, v.getLsbD 2, v.getLsbD 1, v.getLsbD 0]

/-- Bits 31..28 of a trace word (R84). -/
def opOf (w : TraceWord) : BitVec 4 := w.extractLsb' 28 4

/-- Bits 27..0 of a trace word (R84). -/
def argOf (w : TraceWord) : BitVec 28 := w.extractLsb' 0 28

/-! ### Decoding -/

/-- An operation without operands: all of `arg` must be 0 (R84). -/
def decodeBare (i : Instr) (arg : BitVec 28) : Except Reject Instr :=
  if arg = 0#28 then .ok i else .error .mustBeZero

/-- The trace-event word (R84, R90). -/
def decodeWord (w : TraceWord) : Except Reject Instr :=
  let arg := argOf w
  match (opOf w).toNat with
  | 0 => decodeBare .step arg
  | 1 => if arg.extractLsb' 8 20 = 0#20 then .ok (.rxb (arg.extractLsb' 0 8)) else .error .mustBeZero
  | 2 => if arg.extractLsb' 1 27 = 0#27 then .ok (.sbit (arg.getLsbD 0)) else .error .mustBeZero
  | 3 => decodeBare .csa arg
  | 4 => decodeBare .csd arg
  | 5 => if arg.extractLsb' 1 27 = 0#27 then .ok (.sync (arg.getLsbD 0)) else .error .mustBeZero
  | 6 => if arg = 0#28 then .error .advZero else .ok (.adv arg)
  | 7 => decodeBare .rst arg
  | _ => .error .reservedOp

/-- The command byte: every value has a meaning (R82, R89). -/
def decodeCommand (v : Byte) : Instr :=
  if v = 0#8 then .cmdStop else .cmdDrive v

/-- The serial word: the byte whose bit 7 is the first sample (R80, R85). -/
def decodeSerial (samples : List Bool) : Except Reject Instr :=
  if samples.length = 8 then .ok (.serialWord (samples.foldl shiftIn 0#8)) else .error .serialLength

/-- The frame: exactly 36 bytes (R81). -/
def decodeFrame (bytes : List Byte) : Except Reject Instr :=
  if h : bytes.length = 36 then .ok (.frame ⟨bytes.toArray, by simpa using h⟩) else .error .frameLength

/-- The decoder, total on every code of every format. -/
def decode : Code → Except Reject Instr
  | .trace w => decodeWord w
  | .command v => .ok (decodeCommand v)
  | .serial samples => decodeSerial samples
  | .frame bytes => decodeFrame bytes

/-! ### Encoding -/

/-- `op` in bits 31..28, `arg` in bits 27..0 (R84). -/
def traceWord (op : BitVec 4) (arg : BitVec 28) : TraceWord := op ++ arg

/-- The code of an operation, from the tables of R80 to R84 and R88. A micro-step has the word of `STEP` (R88);
the five functions have no encoding. -/
def encode : Instr → Option Code
  | .rxb v => some (.trace (traceWord 0x1#4 (v.setWidth 28)))
  | .sbit b => some (.trace (traceWord 0x2#4 ((BitVec.ofBool b).setWidth 28)))
  | .csa => some (.trace (traceWord 0x3#4 0#28))
  | .csd => some (.trace (traceWord 0x4#4 0#28))
  | .sync l => some (.trace (traceWord 0x5#4 ((BitVec.ofBool l).setWidth 28)))
  | .adv d => some (.trace (traceWord 0x6#4 d))
  | .rst => some (.trace (traceWord 0x7#4 0#28))
  | .step => some (.trace (traceWord 0x0#4 0#28))
  | .drain => some (.trace (traceWord 0x0#4 0#28))
  | .drainx => some (.trace (traceWord 0x0#4 0#28))
  | .svc => some (.trace (traceWord 0x0#4 0#28))
  | .nosvc => some (.trace (traceWord 0x0#4 0#28))
  | .bapply => some (.trace (traceWord 0x0#4 0#28))
  | .bend => some (.trace (traceWord 0x0#4 0#28))
  | .wdg => some (.trace (traceWord 0x0#4 0#28))
  | .capply => some (.trace (traceWord 0x0#4 0#28))
  | .cind => some (.trace (traceWord 0x0#4 0#28))
  | .cmdStop => some (.command 0#8)
  | .cmdDrive v => some (.command v)
  | .serialWord v => some (.serial (byteBits v))
  | .frame bytes => some (.frame bytes.toList)
  | .setPulse _ _ => none
  | .map _ => none
  | .edgeHandler => none
  | .fifoPush _ => none
  | .pwmAdvance _ => none

/-- What the code of an operation spells by itself: a micro-step's word is `STEP`, which the state resolves
(R88, R94); every other code spells its own operation. -/
def Instr.spelled : Instr → Instr
  | .drain | .drainx | .svc | .nosvc | .bapply | .bend | .wdg | .capply | .cind => .step
  | .rxb v => .rxb v
  | .sbit b => .sbit b
  | .csa => .csa
  | .csd => .csd
  | .sync l => .sync l
  | .adv d => .adv d
  | .rst => .rst
  | .step => .step
  | .cmdStop => .cmdStop
  | .cmdDrive v => .cmdDrive v
  | .serialWord v => .serialWord v
  | .frame bytes => .frame bytes
  | .setPulse i us => .setPulse i us
  | .map v => .map v
  | .edgeHandler => .edgeHandler
  | .fifoPush v => .fifoPush v
  | .pwmAdvance d => .pwmAdvance d

/-- The table's numbering of a code's bits (log 3): 32 bits are a trace word, 8 bits a command byte; no format has
another length. -/
def decodeTableWord (nbits w : Nat) : Option Instr :=
  if nbits = 32 then (decodeWord (BitVec.ofNat 32 w)).toOption
  else if nbits = 8 then some (decodeCommand (BitVec.ofNat 8 w))
  else none

end Sys2Proof
end

