-- ==== Sys2Proof/Machine/State.lean ====
section
/-! DEFINITION. The state of one node core (rules R20 to R40), what can stop a step, and the state after reset. -/

namespace Sys2Proof.Machine

/-- The sequencer's phase (R29). -/
inductive Phase where
  | a | b | bapply | bend | c | capply | cind
deriving DecidableEq, Repr

/-- The state: every element of R20, the configuration, and two fields of the model's own. -/
structure State where
  /-- The node's constants and parameters (R37); not state of the spec (R42), written by no operation (log 4). -/
  cfg : Config
  /-- `PEND` (R21). -/
  pend : Nine Byte
  /-- `ACTV` (R22). -/
  actv : Nine Byte
  /-- `FP` (R23). -/
  fp : Nat
  /-- `SYNCFLAG` (R24). -/
  syncflag : Bool
  /-- `SYNCCNT` (R25). -/
  synccnt : Nat
  /-- `LASTSYNC` in microseconds (R26). -/
  lastsync : Nat
  /-- `LASTBYTE` in microseconds (R27). -/
  lastbyte : Nat
  /-- `STATUS`; true is the high level (R28). -/
  status : Bool
  /-- `PHASE` (R29). -/
  phase : Phase
  /-- `CHIDX` (R29). -/
  chidx : Chan
  /-- `NOW` in microseconds (R30). -/
  now : Nat
  /-- `FIFO`, the head is the oldest byte (R31). -/
  fifo : List Byte
  /-- `SR` (R32). -/
  sr : Byte
  /-- `BITCNT` (R32). -/
  bitcnt : Nat
  /-- `SEL`; true while selected (R32). -/
  sel : Bool
  /-- `SYNCLVL` (R33). -/
  synclvl : Bool
  /-- `CMP` in microseconds (R34). -/
  cmp : Nine Nat
  /-- `LIVE` in microseconds (R35). -/
  live : Nine Nat
  /-- `CNT` in microseconds (R36). -/
  cnt : Nine Nat
  /-- `OVR`, the spec's fault mark, no hardware (R39). -/
  ovr : Bool
  /-- The MODEL's own: the trace words still to be performed, the next one first (R84, R182, log 1). -/
  trace : List TraceWord
  /-- The MODEL's own: how many free values of `T0` this node has drawn (log 6). -/
  draws : Nat
deriving DecidableEq, Repr

/-- What stops the machine with a fault: nothing does. "No operation halts the block" (R184), and none of the error
kinds of R190 is a trap; `OVR` is a mark in the state (R39). Having no constructor is neither safe nor unsafe: no
behaviour is left out (log 23). -/
inductive Fault
deriving DecidableEq, Repr

/-- Why a step or an operation has no meaning. -/
inductive Refusal where
  /-- Raised by `exec` alone, for a constructor that has no meaning yet. Safe. -/
  | notModelled (mnemonic : String)
  /-- Raised by `step` for a trace word that spells no operation, and by `ADV` with `d` = 0: "A model refuses them (it
  gives them no meaning)" (R90). Safe. -/
  | notAnOperation (why : Reject)
  /-- Raised by the nine micro-steps in a state that selects another micro-step: a listing's annotation "that
  disagrees with the state is an error of the listing, not a different operation" (R94). Safe. -/
  | notSelected (m : MicroStep)
  /-- Raised by `CMD.STOP` and `CMD.DRIVE` in a state where `BAPPLY` does not read that byte (R88, log 17). Safe. -/
  | commandNotRead (v : Byte)
  /-- Raised by `SetPulse` with a channel of 9 or more: "outside the contract; the block never makes one ... and a
  model refuses it" (R100, D20). Safe. -/
  | channelOutOfRange (i : Nat)
deriving DecidableEq, Repr

/-- The state after power-on with configuration `g` and clock value `t0`: the table of R40. -/
def State.powerOn (g : Config) (t0 : Nat) : State where
  cfg := g
  pend := Vector.replicate 9 0#8
  actv := Vector.replicate 9 0#8
  fp := 0
  syncflag := false
  synccnt := 0
  lastsync := t0
  lastbyte := t0
  status := false
  phase := .a
  chidx := 0
  now := t0
  fifo := []
  sr := 0#8
  bitcnt := 0
  sel := false
  synclvl := false
  cmp := Vector.replicate 9 IDLE_US
  live := Vector.replicate 9 IDLE_US
  cnt := g.pwmPhase0
  ovr := false
  trace := []
  draws := 0

/-- The machine right after reset: R40, with the reference configuration of node 1 (log 5), `T0` = 0 (log 6) and no
pending trace word (log 1). -/
def State.reset : State := State.powerOn (Config.reference 1) 0

end Sys2Proof.Machine
end

