-- ==== Sys2Proof/Machine/Flags.lean ====
section
/-! DEFINITION. The two flag bits and the derived condition of rule R38, and the conditions that set them. -/

namespace Sys2Proof.Machine

/-- `Stale`: `NOW − LASTSYNC > SAFETY_TIMEOUT_US`, strict and not stored (R38, R155). -/
def State.stale (s : State) : Bool := decide (s.now - s.lastsync > SAFETY_TIMEOUT_US)

/-- The receive FIFO holds `FIFO_DEPTH` bytes or more, so a push loses its byte (R122). -/
def State.fifoFull (s : State) : Bool := !decide (s.fifo.length < s.cfg.fifoDepth)

/-- `FIFO` after `FifoPush(v)` (R122). -/
def State.fifoPushed (s : State) (v : Byte) : List Byte := if s.fifoFull then s.fifo else s.fifo ++ [v]

/-- `OVR` after a push: sticky, set when the FIFO is full (R38, R122). -/
def State.ovrPushed (s : State) : Bool := s.ovr || s.fifoFull

/-- Level `l` on the sync input is a rising edge (R33, R140). -/
def State.risingEdge (s : State) (l : Bool) : Bool := l && !s.synclvl

/-- The next edge is the one that toggles the heartbeat: `SYNCCNT + 1 = HEARTBEAT_PERIOD` (R141). -/
def State.heartbeatDue (s : State) : Bool := s.synccnt + 1 == HEARTBEAT_PERIOD

/-- The next `SBIT` completes a byte (R120). -/
def State.byteEnds (s : State) : Bool := s.sel && s.bitcnt == 7

end Sys2Proof.Machine
end

