-- ==== Sys2Proof/Machine/Operands.lean ====
section
/-! DEFINITION. What the operations read: the position filter (R63, R86, R125), the value mapper (R110), the clamp
(R100), the fault wave (R158), and the micro-step a state selects (R88, R175). -/

namespace Sys2Proof.Machine

/-! ### Frame positions -/

/-- `MY_START` (R6). -/
def myStart (g : Config) : Nat := g.nodeId.val * CH_PER_NODE

/-- `MY_END` (R6). -/
def myEnd (g : Config) : Nat := myStart g + CH_PER_NODE

/-- The slice offset `idx − MY_START`, formed only when `MY_START ≤ idx < MY_END` (R63, R86). -/
def sliceOffset (g : Config) (idx : Nat) : Option Chan :=
  if h : myStart g ≤ idx ∧ idx < myEnd g then
    some ⟨idx - myStart g, by have := h.2; simp only [myEnd, CH_PER_NODE] at this; omega⟩
  else none

/-- `PEND` after the byte `b` was counted at position `idx`: step 5 of R124. -/
def storePending (g : Config) (idx : Nat) (b : Byte) (pend : Nine Byte) : Nine Byte :=
  match sliceOffset g idx with
  | some i => pend.set i b
  | none => pend

/-- `FP` after a byte was counted, saturating at 36: step 4 of R124. -/
def nextPosition (fp : Nat) : Nat := if fp < FRAME_BYTES then fp + 1 else fp

/-- The node a frame position belongs to (R62). -/
def nodeOfPosition (g : Nat) : Nat := g / CH_PER_NODE

/-- The channel of its node that a frame position addresses (R62, R86). -/
def channelOfPosition (g : Nat) : Nat := g % CH_PER_NODE

/-! ### Pulse widths -/

/-- `Map(v)`: the pulse width in microseconds of a command byte (R110; the product before the division, R112). -/
def mapUs (v : Byte) : Nat :=
  if v = 0#8 then IDLE_US
  else min (MIN_ACTIVE_US + v.toNat * (MAX_US - MIN_ACTIVE_US) / 255) MAX_US

/-- `clamp(us, IDLE_US, MAX_US)` (R10, R100). -/
def clampPulse (us : Nat) : Nat := min (max us IDLE_US) MAX_US

/-- The value of the fault square wave at time `now`: `floor(NOW / FAULT_HALF_US) mod 2` (R158). -/
def faultWave (g : Config) (now : Nat) : Bool := now / g.faultHalfUs % 2 == 1

/-! ### What the state selects -/

/-- The three-bit code of a phase; 7 never occurs (R29). -/
def Phase.code : Phase → BitVec 3
  | .a => 0
  | .b => 1
  | .bapply => 2
  | .bend => 3
  | .c => 4
  | .capply => 5
  | .cind => 6

/-- The micro-step that `STEP` resolves to: the conditions of R88, which are mutually exclusive and exhaustive. -/
def State.selected (s : State) : MicroStep :=
  match s.phase with
  | .a => if s.fifo.isEmpty then .drainx else .drain
  | .b => if s.syncflag then .svc else .nosvc
  | .bapply => .bapply
  | .bend => .bend
  | .c => .wdg
  | .capply => .capply
  | .cind => .cind

/-- The command byte that `BAPPLY` reads: `ACTV[CHIDX]` (R88, R144). -/
def State.commandByte (s : State) : Byte := s.actv[s.chidx]

/-- The state is one in which `BAPPLY` reads the command byte `v` (R88). -/
def State.readsCommand (s : State) (v : Byte) : Bool := s.selected == .bapply && s.commandByte == v

end Sys2Proof.Machine
end

