-- ==== Sys2Proof/Machine/Ops.lean ====
section
/-! DEFINITION. The effects of the operations as functions of the state: the serial line, the sync interrupt and the
safe-state entry (this block's two exceptions, R201 and R202), the pulse generator, time, and the fetch of the next
trace word. Each effect is one record update, so that what it leaves alone is what it does not name. -/

namespace Sys2Proof.Machine

/-! ### Serial line -/

/-- `FifoPush(v)` (R122). -/
def fifoPush (v : Byte) (s : State) : State :=
  { s with fifo := s.fifoPushed v, ovr := s.ovrPushed }

/-- `SBIT b` (R120): while selected the bit is shifted in, and the eighth one pushes the byte. -/
def serialBit (b : Bool) (s : State) : State :=
  { s with
    sr := if s.sel then shiftIn s.sr b else s.sr
    bitcnt := if s.sel then (if s.bitcnt = 7 then 0 else s.bitcnt + 1) else s.bitcnt
    fifo := if s.byteEnds then s.fifoPushed (shiftIn s.sr b) else s.fifo
    ovr := if s.byteEnds then s.ovrPushed else s.ovr }

/-- Chip select takes the level `selected`, and the bit count restarts (R121). -/
def chipSelect (selected : Bool) (s : State) : State :=
  { s with sel := selected, bitcnt := 0 }

/-! ### Sync input: the interrupt -/

/-- `EdgeHandler()` (R141), the entry of the one interrupt. Nothing is saved and the sequencer's position is unchanged
(R201); its return is its end (R203). -/
def edgeHandler (s : State) : State :=
  { s with
    syncflag := true
    status := if s.heartbeatDue then !s.status else s.status
    synccnt := if s.heartbeatDue then 0 else s.synccnt + 1 }

/-- `SYNC l` (R140). -/
def syncLevel (l : Bool) (s : State) : State :=
  { (if s.risingEdge l then edgeHandler s else s) with synclvl := l }

/-! ### Step A -/

/-- `DRAIN` (R124) when the FIFO holds a byte. -/
def drainByte (s : State) : State :=
  match s.fifo with
  | [] => s
  | b :: rest =>
    { s with
      fifo := rest
      lastbyte := s.now
      fp := nextPosition s.fp
      pend := storePending s.cfg s.fp b s.pend }

/-- The sequencer goes to phase `p` and does nothing else (`DRAINX` R126, `NOSVC` R142). -/
def enterPhase (p : Phase) (s : State) : State := { s with phase := p }

/-! ### Step B -/

/-- `SVC` (R143). -/
def takeSnapshot (s : State) : State :=
  { s with syncflag := false, lastsync := s.now, actv := s.pend, chidx := 0, phase := .bapply }

/-- `SetPulse(i, us)` (R100). -/
def setPulse (i : Chan) (us : Nat) (s : State) : State :=
  { s with cmp := s.cmp.set i (clampPulse us) }

/-- The end of `BAPPLY` and `CAPPLY`: the next channel, or phase `done` after channel 8 (R144, R157). -/
def nextChannel (done : Phase) (s : State) : State :=
  { s with
    chidx := if s.chidx = 8 then 0 else s.chidx + 1
    phase := if s.chidx = 8 then done else s.phase }

/-- `BAPPLY` of the pulse width `us` on the channel `CHIDX` (R144). -/
def applyPulse (us : Nat) (s : State) : State :=
  nextChannel .bend (setPulse s.chidx us s)

/-- `BEND` (R145). -/
def endService (s : State) : State := { s with fp := 0, phase := .c }

/-! ### Step C: the safe state -/

/-- `WDG` (R156): the entry of the safe-state action when the node is stale (R202), else the end of the iteration. -/
def watchdogCheck (s : State) : State :=
  { s with
    chidx := if s.stale then 0 else s.chidx
    phase := if s.stale then .capply else .a }

/-- `CAPPLY` (R157). -/
def forceIdle (s : State) : State :=
  nextChannel .cind (setPulse s.chidx IDLE_US s)

/-- `CIND` (R158). -/
def driveFaultWave (s : State) : State :=
  { s with status := faultWave s.cfg s.now, phase := .a }

/-! ### Time and power -/

/-- `PwmAdvance(d)` (R102): every counter advances, and a channel whose counter wraps takes its command (R103). -/
def pwmAdvance (d : Nat) (s : State) : State :=
  { s with
    live := Vector.ofFn fun c : Chan => if s.cnt[c] + d ≥ s.cfg.pwmPeriodUs then s.cmp[c] else s.live[c]
    cnt := Vector.ofFn fun c : Chan => (s.cnt[c] + d) % s.cfg.pwmPeriodUs }

/-- `ADV d` (R179). -/
def advance (d : Nat) (s : State) : State :=
  { pwmAdvance d s with now := s.now + d }

/-- `RST` (R181): the table of R40 with the node's next free `T0` (log 6). The configuration is hardwired and the pending
trace is the environment's, so both stay. -/
def powerCycle (s : State) : State :=
  { State.powerOn s.cfg (Config.freeT0 s.cfg.nodeId s.draws) with trace := s.trace, draws := s.draws + 1 }

/-! ### The sequencer -/

/-- The effect of each micro-step (R88, R175). -/
def microEffect : MicroStep → State → State
  | .drain => drainByte
  | .drainx => enterPhase .b
  | .svc => takeSnapshot
  | .nosvc => enterPhase .c
  | .bapply => fun s => applyPulse (mapUs s.commandByte) s
  | .bend => endService
  | .wdg => watchdogCheck
  | .capply => forceIdle
  | .cind => driveFaultWave

/-- `STEP` (R175): the effect of the micro-step the state selects. -/
def sequencerStep (s : State) : State := microEffect s.selected s

/-- A micro-step named by a listing runs only where the state selects it (R94, log 16). -/
def runSelected (m : MicroStep) (s : State) : Host.Outcome State Fault Refusal :=
  if s.selected = m then .next (microEffect m s) else .refused (.notSelected m)

/-- A command form runs only where `BAPPLY` reads that byte (R88, log 17). -/
def runCommand (v : Byte) (us : Nat) (s : State) : Host.Outcome State Fault Refusal :=
  if s.readsCommand v then .next (applyPulse us s) else .refused (.commandNotRead v)

/-! ### The next event -/

/-- The next trace word and the state without it. With none pending the sequencer has its turn, `STEP`: "The loop
yields nowhere" (R177, log 2). -/
def State.fetch (s : State) : TraceWord × State :=
  match s.trace with
  | [] => (0x00000000#32, s)
  | w :: rest => (w, { s with trace := rest })

/-- Place a code where the next step takes it (log 3). A 32-bit trace word goes to the front of the pending trace. An
8-bit command byte is latched in `ACTV[CHIDX]` with the sequencer at `BAPPLY`, whose `STEP` then reads it (R88). No
format has another length. -/
def placeCode (nbits w : Nat) (s : State) : State :=
  if nbits = 32 then { s with trace := BitVec.ofNat 32 w :: s.trace }
  else if nbits = 8 then
    { s with
      actv := s.actv.set s.chidx (BitVec.ofNat 8 w)
      phase := .bapply
      trace := 0x00000000#32 :: s.trace }
  else s

end Sys2Proof.Machine
end

