-- ==== Sys2Proof/Machine/MainLoop.lean ====
section
/-! DEFINITION. The sequencer's `STEP`, time `ADV` and power-on `RST` (rules R175, R179, R181). -/

namespace Sys2Proof.Machine

/-- `STEP` (R175). -/
def execStep (s : State) : Host.Outcome State Fault Refusal := .next (sequencerStep s)

/-- `ADV d` (R179); `d` = 0 "is not an operation" (R90). -/
def execAdv (d : BitVec 28) (s : State) : Host.Outcome State Fault Refusal :=
  if d = 0#28 then .refused (.notAnOperation .advZero) else .next (advance d.toNat s)

/-- `RST` (R181). -/
def execRst (s : State) : Host.Outcome State Fault Refusal := .next (powerCycle s)

end Sys2Proof.Machine
end

