-- ==== Sys2Proof/Machine/PulseGenerator.lean ====
section
/-! DEFINITION. Pulse generator and value mapper: `SetPulse`, `PwmAdvance`, `Map`, and the command forms `CMD.STOP` and
`CMD.DRIVE` (rules R82, R100, R102, R110). -/

namespace Sys2Proof.Machine

/-- `SetPulse(i, us)` (R100); a channel of 9 or more is refused (D20). -/
def execSetPulse (i us : Nat) (s : State) : Host.Outcome State Fault Refusal :=
  if h : i < CH_PER_NODE then .next (setPulse ⟨i, h⟩ us s) else .refused (.channelOutOfRange i)

/-- `PwmAdvance(d)` (R102). -/
def execPwmAdvance (d : BitVec 28) (s : State) : Host.Outcome State Fault Refusal := .next (pwmAdvance d.toNat s)

/-- `Map(v)`: "State read or written: none" (R110). Its result `mapUs v` goes to its caller `BAPPLY`, and no state
element holds it (log 18). -/
def execMap (_v : Byte) (s : State) : Host.Outcome State Fault Refusal := .next s

/-- `CMD.STOP`: the command byte 0, pulse `IDLE_US` (R82, R110), where `BAPPLY` reads it (R88, log 17). -/
def execCmdStop (s : State) : Host.Outcome State Fault Refusal := runCommand 0#8 IDLE_US s

/-- `CMD.DRIVE v`: pulse `MIN_ACTIVE_US + floor(v × 800 / 255)` (R82), where `BAPPLY` reads the byte (R88, log 17). The
byte 0 is the other form. -/
def execCmdDrive (v : Byte) (s : State) : Host.Outcome State Fault Refusal :=
  if v = 0#8 then .refused (.commandNotRead v)
  else runCommand v (MIN_ACTIVE_US + v.toNat * 800 / 255) s

end Sys2Proof.Machine
end

