-- ==== Sys2Proof/Machine/Receiver.lean ====
section
/-! DEFINITION. Serial receiver and step A: `RXB`, `SBIT`, `CSA`, `CSD`, `FifoPush`, the wire formats `SERIALWORD`
and `FRAME`, `DRAIN`, `DRAINX` (rules R80, R81, R120 to R126). -/

namespace Sys2Proof.Machine

/-- `RXB v` (R123). -/
def execRxb (v : Byte) (s : State) : Host.Outcome State Fault Refusal := .next (fifoPush v s)

/-- `SBIT b` (R120). -/
def execSbit (b : Bool) (s : State) : Host.Outcome State Fault Refusal := .next (serialBit b s)

/-- `CSA` (R121). -/
def execCsa (s : State) : Host.Outcome State Fault Refusal := .next (chipSelect true s)

/-- `CSD` (R121). -/
def execCsd (s : State) : Host.Outcome State Fault Refusal := .next (chipSelect false s)

/-- `FifoPush(v)` (R122). -/
def execFifoPush (v : Byte) (s : State) : Host.Outcome State Fault Refusal := .next (fifoPush v s)

/-- `SERIALWORD` (R80): its eight bits arrive in the order of the wire, one `SBIT` each (R93 `BYTE`, log 19). -/
def execSerialWord (v : Byte) (s : State) : Host.Outcome State Fault Refusal :=
  .next ((byteBits v).foldl (fun t b => serialBit b t) s)

/-- `FRAME` (R81): its 36 bytes arrive in the order of position, one `RXB` each (R93 `FRAME`, log 19). -/
def execFrame (bytes : Vector Byte 36) (s : State) : Host.Outcome State Fault Refusal :=
  .next (bytes.toList.foldl (fun t b => fifoPush b t) s)

/-- `DRAIN` (R124). -/
def execDrain (s : State) : Host.Outcome State Fault Refusal := runSelected .drain s

/-- `DRAINX` (R126). -/
def execDrainx (s : State) : Host.Outcome State Fault Refusal := runSelected .drainx s

end Sys2Proof.Machine
end

