-- ==== Sys2Proof/Machine/SyncLatch.lean ====
section
/-! DEFINITION. Sync edge detector and step B: `SYNC`, `EdgeHandler`, `NOSVC`, `SVC`, `BAPPLY`, `BEND` (rules R140 to
R145). -/

namespace Sys2Proof.Machine

/-- `SYNC l` (R140). -/
def execSync (l : Bool) (s : State) : Host.Outcome State Fault Refusal := .next (syncLevel l s)

/-- `EdgeHandler()` (R141). -/
def execEdgeHandler (s : State) : Host.Outcome State Fault Refusal := .next (edgeHandler s)

/-- `NOSVC` (R142). -/
def execNosvc (s : State) : Host.Outcome State Fault Refusal := runSelected .nosvc s

/-- `SVC` (R143). -/
def execSvc (s : State) : Host.Outcome State Fault Refusal := runSelected .svc s

/-- `BAPPLY` (R144). -/
def execBapply (s : State) : Host.Outcome State Fault Refusal := runSelected .bapply s

/-- `BEND` (R145). -/
def execBend (s : State) : Host.Outcome State Fault Refusal := runSelected .bend s

end Sys2Proof.Machine
end

