-- ==== Sys2Proof/Machine/Watchdog.lean ====
section
/-! DEFINITION. Watchdog and safe state, step C: `WDG`, `CAPPLY`, `CIND` (rules R156 to R158). -/

namespace Sys2Proof.Machine

/-- `WDG` (R156). -/
def execWdg (s : State) : Host.Outcome State Fault Refusal := runSelected .wdg s

/-- `CAPPLY` (R157). -/
def execCapply (s : State) : Host.Outcome State Fault Refusal := runSelected .capply s

/-- `CIND` (R158). -/
def execCind (s : State) : Host.Outcome State Fault Refusal := runSelected .cind s

end Sys2Proof.Machine
end

