-- ==== Sys2Proof/Machine/Dispatch.lean ====
section
/-! DEFINITION. The meaning of every operation: one arm per constructor of `Instr`. -/

namespace Sys2Proof.Machine

def exec (i : Instr) (s : State) : Host.Outcome State Fault Refusal :=
  match i with
  -- stimuli and the sequencer's turn
  | .rxb v => Sys2Proof.Machine.execRxb v s
  | .sbit b => Sys2Proof.Machine.execSbit b s
  | .csa => Sys2Proof.Machine.execCsa s
  | .csd => Sys2Proof.Machine.execCsd s
  | .sync l => Sys2Proof.Machine.execSync l s
  | .adv d => Sys2Proof.Machine.execAdv d s
  | .rst => Sys2Proof.Machine.execRst s
  | .step => Sys2Proof.Machine.execStep s
  -- the micro-steps
  | .drain => Sys2Proof.Machine.execDrain s
  | .drainx => Sys2Proof.Machine.execDrainx s
  | .svc => Sys2Proof.Machine.execSvc s
  | .nosvc => Sys2Proof.Machine.execNosvc s
  | .bapply => Sys2Proof.Machine.execBapply s
  | .bend => Sys2Proof.Machine.execBend s
  | .wdg => Sys2Proof.Machine.execWdg s
  | .capply => Sys2Proof.Machine.execCapply s
  | .cind => Sys2Proof.Machine.execCind s
  -- command forms and wire formats
  | .cmdStop => Sys2Proof.Machine.execCmdStop s
  | .cmdDrive v => Sys2Proof.Machine.execCmdDrive v s
  | .serialWord v => Sys2Proof.Machine.execSerialWord v s
  | .frame bytes => Sys2Proof.Machine.execFrame bytes s
  -- functions
  | .setPulse ch us => Sys2Proof.Machine.execSetPulse ch us s
  | .map v => Sys2Proof.Machine.execMap v s
  | .edgeHandler => Sys2Proof.Machine.execEdgeHandler s
  | .fifoPush v => Sys2Proof.Machine.execFifoPush v s
  | .pwmAdvance d => Sys2Proof.Machine.execPwmAdvance d s

end Sys2Proof.Machine
end

