-- ==== Sys2Proof/Machine/Step.lean ====
section
/-! DEFINITION. One step of the machine: the next event of the run is taken, decoded and performed (rules R8, R84, R90
and R182). -/

namespace Sys2Proof.Machine

/-- One step: the next trace word is fetched, decoded and performed; a word that spells no operation is refused
(R90). -/
def step (s : State) : Host.Outcome State Fault Refusal :=
  match decode (.trace s.fetch.1) with
  | .ok i => exec i s.fetch.2
  | .error why => .refused (.notAnOperation why)

/-- The state with a code of the table placed where the next step takes it (log 3). -/
def State.withFetchWord (s : State) (nbits w : Nat) : State := placeCode nbits w s

end Sys2Proof.Machine
end

