-- ==== Sys2Proof/Machine/Trace.lean ====
section
/-! DEFINITION. Finite and infinite runs (R8, R182), what happens along a run, and the pseudo-operations of rule R93. -/

namespace Sys2Proof.Machine

/-- Go on from a next state; a fault or a refusal ends the run. -/
def chain {σ τ : Type} (o : Host.Outcome σ Fault Refusal) (f : σ → Host.Outcome τ Fault Refusal) :
    Host.Outcome τ Fault Refusal :=
  match o with
  | .next s => f s
  | .fault r => .fault r
  | .refused r => .refused r

/-- A finite sequence of operations, in order (R182). -/
def runOps : List Instr → State → Host.Outcome State Fault Refusal
  | [], s => .next s
  | i :: rest, s => chain (exec i s) (runOps rest)

/-- The operations between one power-on and the next: those R182 lists as enabled after `RST`. -/
def isRunOp : Instr → Bool
  | .rxb _ => true
  | .sbit _ => true
  | .csa => true
  | .csd => true
  | .sync _ => true
  | .adv d => d != 0#28
  | .step => true
  | .rst => false
  | .drain => false
  | .drainx => false
  | .svc => false
  | .nosvc => false
  | .bapply => false
  | .bend => false
  | .wdg => false
  | .capply => false
  | .cind => false
  | .cmdStop => false
  | .cmdDrive _ => false
  | .serialWord _ => false
  | .frame _ => false
  | .setPulse _ _ => false
  | .map _ => false
  | .edgeHandler => false
  | .fifoPush _ => false
  | .pwmAdvance _ => false

/-- The operations of a run (R8): those and `RST`, which inside a run is a power cycle (R181, D23). -/
def isTraceOp (i : Instr) : Bool := isRunOp i || i == .rst

/-- A finite run: a sequence of operations whose first is `RST` (R8, R182). -/
def isRun : List Instr → Bool
  | [] => false
  | i :: rest => i == .rst && rest.all isTraceOp

/-- An infinite run (R8): operation `n` leads from the state before it, `states n`, to the state after it. -/
structure InfiniteRun (ops : Nat → Instr) (states : Nat → State) : Prop where
  starts : ops 0 = .rst
  traceOps : ∀ n, isTraceOp (ops n) = true
  follows : ∀ n, exec (ops n) (states n) = .next (states (n + 1))

/-- "`STEP` keeps occurring (weak fairness of the sequencer)" (R240). -/
def stepRecurs (ops : Nat → Instr) : Prop := ∀ n, ∃ m, n ≤ m ∧ ops m = .step

/-! ### What happens along a run -/

/-- Everything `f` sees along a run, in order. -/
def collect {α : Type} (f : Instr → State → List α) : List Instr → State → List α
  | [], _ => []
  | i :: rest, s =>
    f i s ++
      match exec i s with
      | .next t => collect f rest t
      | .fault _ => []
      | .refused _ => []

/-- `p` holds of every operation of a run in the state it is performed in. -/
def everyOp (p : Instr → State → Bool) : List Instr → State → Bool
  | [], _ => true
  | i :: rest, s =>
    p i s &&
      match exec i s with
      | .next t => everyOp p rest t
      | .fault _ => true
      | .refused _ => true

/-- The operation is a `STEP` that resolves to the micro-step `m` (R94). -/
def resolvesTo (m : MicroStep) (i : Instr) (s : State) : Bool := i == .step && s.selected == m

/-- The operation is not a `STEP` that resolves to the micro-step `m`. -/
def resolvesElse (m : MicroStep) (i : Instr) (s : State) : Bool := !resolvesTo m i s

/-- The byte an operation of a run pops from the FIFO (R124). -/
def poppedBy (i : Instr) (s : State) : List Byte := if resolvesTo .drain i s then s.fifo.take 1 else []

/-- The byte an operation of a run offers to the FIFO (R120, R123). -/
def pushedBy (i : Instr) (s : State) : List Byte :=
  match i with
  | .rxb v => [v]
  | .sbit b => if s.byteEnds then [shiftIn s.sr b] else []
  | _ => []

/-- The bytes popped along a run, in order. -/
def popped : List Instr → State → List Byte := collect poppedBy

/-- The bytes offered to the FIFO along a run, in order. -/
def pushed : List Instr → State → List Byte := collect pushedBy

/-! ### Pseudo-operations (R93) -/

/-- `EDGE`. -/
def opsEdge : List Instr := [.sync true, .sync false]

/-- `PULSE w`. -/
def opsPulse (w : BitVec 28) : List Instr := [.sync true, .adv w, .sync false]

/-- `FRAME b0 ... b35`. -/
def opsFrame (bytes : Vector Byte 36) : List Instr := bytes.toList.map .rxb

/-- `FILL n v`. -/
def opsFill (n : Nat) (v : Byte) : List Instr := List.replicate n (.rxb v)

/-- The bytes `a, a + 1, ..., a + n − 1` of `SEQ` and `SEQD`; none where a value reaches 256. -/
def countingBytes (n a : Nat) : Option (List Byte) :=
  if a + n ≤ 256 then some ((List.range n).map fun k => BitVec.ofNat 8 (a + k)) else none

/-- `SEQ n a`; "values must stay below 256". -/
def opsSeq (n a : Nat) : Option (List Instr) := (countingBytes n a).map fun bytes => bytes.map .rxb

/-- `BYTE v`. -/
def opsByte (v : Byte) : List Instr := (byteBits v).map .sbit

/-- Each byte arrives and the sequencer has one turn: the shape of `FILLD` and `SEQD`. -/
def opsDrained (bytes : List Byte) : List Instr := bytes.flatMap fun b => [.rxb b, .step]

/-- `FILLD` and `SEQD` "are legal only when `PHASE` = A at the start"; each `STEP` is then a `DRAIN`, so the phase stays A,
and a FIFO that was empty is empty after them. -/
def drainedLegal (s : State) : Bool := s.phase == .a

/-- `FILLD n v`, in a state where it is legal. -/
def opsFillD (n : Nat) (v : Byte) (s : State) : Option (List Instr) :=
  if drainedLegal s then some (opsDrained (List.replicate n v)) else none

/-- `SEQD n a`, in a state where it is legal. -/
def opsSeqD (n a : Nat) (s : State) : Option (List Instr) :=
  if drainedLegal s then (countingBytes n a).map opsDrained else none

/-- At most `fuel` `STEP`s while `PHASE` = A and the FIFO is not empty. -/
def drainUpTo : Nat → State → State
  | 0, s => s
  | fuel + 1, s => if s.selected = .drain then drainUpTo fuel (sequencerStep s) else s

/-- `DRAINALL`. -/
def drainAll (s : State) : State := drainUpTo s.fifo.length s

/-- The `STEP` in state `s` is the last of an iteration: it moves `PHASE` from C or CIND to A (R93). -/
def endsIteration (s : State) : Bool :=
  (s.phase == .c || s.phase == .cind) && (sequencerStep s).phase == .a

/-- `STEP`s up to the end of the iteration, at most `fuel` of them: how many, and the state after them. -/
def iterateUpTo : Nat → State → Option (Nat × State)
  | 0, _ => none
  | fuel + 1, s =>
    if endsIteration s then some (1, sequencerStep s)
    else (iterateUpTo fuel (sequencerStep s)).map fun r => (r.1 + 1, r.2)

/-- `ITER`: the number of its `STEP`s and the state after it. No iteration has more than 23 steps beside its `DRAIN`s
(R183), so the bound is never met (log 26). -/
def iteration (s : State) : Option (Nat × State) := iterateUpTo (s.fifo.length + 23) s

/-- `ITER n`. -/
def iterations : Nat → State → Option State
  | 0, s => some s
  | n + 1, s => (iteration s).bind fun r => iterations n r.2

/-- `SPIN n d`; none where its `ADV d` is refused (R90). -/
def spin (d : BitVec 28) : Nat → State → Option State
  | 0, s => some s
  | n + 1, s =>
    match exec (.adv d) s with
    | .next t => (iteration t).bind fun r => spin d n r.2
    | .fault _ => none
    | .refused _ => none

end Sys2Proof.Machine
end

