-- ==== Sys2Proof/Machine/Nodes.lean ====
section
/-! DEFINITION. The four nodes on one bus and one sync line (rule R209, D27): four instances of the machine that receive
the same stimuli in the same order, with independent `STEP`s. -/

namespace Sys2Proof.Machine

/-- Four cores. -/
structure Nodes where
  node : Vector State 4
deriving DecidableEq, Repr

/-- What can happen to the four nodes. -/
inductive NodesOp where
  /-- A stimulus that reaches all four: the shared bus, the sync line, and `ADV` (R209, D27). -/
  | shared (i : Instr)
  /-- An operation of one node alone: its sequencer, and time of "its own time base" (R209); its power (log 24). -/
  | own (k : Fin 4) (i : Instr)
deriving DecidableEq, Repr

/-- The shared stimuli are the six of D27; a node's own operations are `STEP`, `ADV` and `RST` (log 24). -/
def NodesOp.ok : NodesOp → Bool
  | .shared (.rxb _) => true
  | .shared (.sbit _) => true
  | .shared .csa => true
  | .shared .csd => true
  | .shared (.sync _) => true
  | .shared (.adv d) => d != 0#28
  | .shared _ => false
  | .own _ .step => true
  | .own _ (.adv d) => d != 0#28
  | .own _ .rst => true
  | .own _ _ => false

/-- Time passes for all four nodes at once, as D27 has it: no node has an `ADV` of its own. -/
def NodesOp.sharedTime : NodesOp → Bool
  | .own _ (.adv _) => false
  | .own _ _ => true
  | .shared _ => true

/-- The operation `i` on node `k` alone. -/
def nodesOwn (k : Fin 4) (i : Instr) (n : Nodes) : Host.Outcome Nodes Fault Refusal :=
  chain (exec i n.node[k]) fun t => .next ⟨n.node.set k t⟩

/-- One operation of the array. -/
def nodesExec (o : NodesOp) (n : Nodes) : Host.Outcome Nodes Fault Refusal :=
  match o with
  | .shared i =>
    chain (nodesOwn 0 i n) fun n => chain (nodesOwn 1 i n) fun n => chain (nodesOwn 2 i n) (nodesOwn 3 i)
  | .own k i => nodesOwn k i n

/-- The operations of a run of the array, in order. -/
def nodesRun : List NodesOp → Nodes → Host.Outcome Nodes Fault Refusal
  | [], n => .next n
  | o :: rest, n => chain (nodesExec o n) (nodesRun rest)

/-- Four configurations are the same but for `NODE_ID`: the premise that the open parameters of R7 are common to the "four
identical microcontroller nodes" (log 24). -/
def sameParameters (g : Fin 4 → Config) : Prop := ∀ k : Fin 4, { g k with nodeId := 0 } = { g 0 with nodeId := 0 }

/-- The array after power-on: node `k` has `NODE_ID` = `k`, its own parameters and its own clock. Whether the open
parameters of R7 are the same in all four the spec leaves open; that each node has its own is the model's choice
(DESIGN CHOICE, log 24), and `sameParameters` is the premise that they are common. -/
def Nodes.powerOn (g : Fin 4 → Config) (t0 : Fin 4 → Nat) : Nodes :=
  ⟨Vector.ofFn fun k => State.powerOn { g k with nodeId := k } (t0 k)⟩

end Sys2Proof.Machine
end

