-- ==== Sys2Proof/Machine/Outputs.lean ====
section
/-! DEFINITION. The outputs, functions of the state valid between any two operations (rules R41, R104, R105). -/

namespace Sys2Proof.Machine

/-- `pwm_out[c]`: high for the first `LIVE[c]` microseconds of every period (R41, R104). -/
def State.pwmOut (s : State) (c : Chan) : Bool := decide (s.cnt[c] < s.live[c])

/-- `status_out` (R41). -/
def State.statusOut (s : State) : Bool := s.status

/-- `miso`, the node's transmit line: never driven (R41, R131). -/
def State.miso (_s : State) : Option Bool := none

/-- The tick value in the hardware's timer register of channel `c`: `CMP[c] × K` (R34, R105). -/
def State.commandTicks (s : State) (c : Chan) : Nat := s.cmp[c] * s.cfg.k

end Sys2Proof.Machine
end

