-- ==== Sys2Proof/Safety.lean ====
section
/-! DEFINITION. What claims are stated in: the invariant of rule R42, the contract mark of R39, the host's duties of
`70_reset_and_hazards.md`, and the premises about elapsed time of R240. -/

namespace Sys2Proof.Machine

/-- The facts R42 lists for every reachable state, with the parameter ranges of R7 and the range of `BITCNT` (R32). -/
structure State.Inv (s : State) : Prop where
  cfg_ok : s.cfg.Ok
  fp_le : s.fp ≤ FRAME_BYTES
  synccnt_lt : s.synccnt < HEARTBEAT_PERIOD
  cmp_range : ∀ c : Chan, IDLE_US ≤ s.cmp[c] ∧ s.cmp[c] ≤ MAX_US
  live_range : ∀ c : Chan, IDLE_US ≤ s.live[c] ∧ s.live[c] ≤ MAX_US
  cnt_lt : ∀ c : Chan, s.cnt[c] < s.cfg.pwmPeriodUs
  lastsync_le : s.lastsync ≤ s.now
  lastbyte_le : s.lastbyte ≤ s.now
  chidx_zero : s.phase ≠ .bapply → s.phase ≠ .capply → s.chidx = 0
  fifo_le : s.fifo.length ≤ s.cfg.fifoDepth
  bitcnt_lt : s.bitcnt < 8
  bitcnt_zero : s.sel = false → s.bitcnt = 0

/-- The run is inside the contract: "every claim is made under `OVR` = 0" (R39, U3). -/
def State.inContract (s : State) : Bool := !s.ovr

/-- The commands written so far are those the running phase writes: in `BAPPLY` the channels before `CHIDX`, and in
`BEND` all nine, have the pulse of their latched byte (R144, R147); in `CAPPLY` and `CIND` likewise the idle pulse
(R157). -/
structure State.CommandsFollowPhase (s : State) : Prop where
  bapply : s.phase = .bapply → ∀ c : Chan, c < s.chidx → s.cmp[c] = mapUs s.actv[c]
  bend : s.phase = .bend → ∀ c : Chan, s.cmp[c] = mapUs s.actv[c]
  capply : s.phase = .capply → ∀ c : Chan, c < s.chidx → s.cmp[c] = IDLE_US
  cind : s.phase = .cind → ∀ c : Chan, s.cmp[c] = IDLE_US

/-! ### The safe state (R12, R202): a fact about a run, since no state element holds it -/

/-- After the operation `i` in state `s`: the status indicator has been driven by the fault pattern (`CIND`) since the
node was last powered on or serviced. `driven` says so before the operation. -/
def faultDrivenAfter (driven : Bool) (i : Instr) (s : State) : Bool :=
  resolvesTo .cind i s || (driven && resolvesElse .svc i s && i != .rst)

/-- The same after a sequence of operations. -/
def faultDriven : Bool → List Instr → State → Bool
  | driven, [], _ => driven
  | driven, i :: rest, s =>
    match exec i s with
    | .next t => faultDriven (faultDrivenAfter driven i s) rest t
    | .fault _ => false
    | .refused _ => false

/-- A run ends in the safe state: "all outputs at idle pulse, fault indicator pattern active; entered on watchdog expiry"
(R12, log 31). In a run, which starts with `RST`, `CIND` comes only of a `WDG` that found the node stale, so `driven` is the
entry and the active pattern together. The outputs are the nine commands; the pins follow them at the next wrap (R202). -/
structure InSafeState (ops : List Instr) (s t : State) : Prop where
  run : isRun ops = true
  ends : runOps ops s = .next t
  driven : faultDriven false ops s = true
  stale : t.stale = true
  idle : ∀ c : Chan, t.cmp[c] = IDLE_US

/-! ### The host's duties, as conditions on an operation in the state it is performed in, or on a run -/

/-- The operation is a rising edge of the sync input (R140). -/
def isEdge (i : Instr) (s : State) : Bool :=
  match i with
  | .sync l => s.risingEdge l
  | _ => false

/-- How many bytes now in the FIFO came before an edge, after the operation `i` and when it was `old` before: all of them
when `i` is that edge (`marks`), one fewer when `i` pops one, none after a power cycle. A byte that the edge cuts comes
after it (R236). -/
def bytesBeforeEdge (marks : Bool) (old : Nat) (i : Instr) (s : State) : Nat :=
  if marks then s.fifo.length
  else if resolvesTo .drain i s then old - 1
  else if i == .rst then 0
  else old

/-- R224, settle time: along the run "the last byte of a frame must have been popped by the node before the `SVC` that
services the frame's edge", whatever the number of its bytes: at an `SVC` no byte that came before the last edge is
still in the FIFO. `old` counts those at the start. A byte lost to a full FIFO breaks R226 and not this. -/
def dutySettle : Nat → List Instr → State → Bool
  | _, [], _ => true
  | old, i :: rest, s =>
    (resolvesElse .svc i s || old == 0) &&
      match exec i s with
      | .next t => dutySettle (bytesBeforeEdge (isEdge i s) old i s) rest t
      | .fault _ => true
      | .refused _ => true

/-- The time since the end of the last byte after the operation `i`, when it was `age` before; none before the first, and
none again after a power cycle, which keeps no byte (DESIGN CHOICE, log 32). -/
def byteAgeAfter (age : Option Nat) (i : Instr) (s : State) : Option Nat :=
  match i with
  | .adv d => age.map (· + d.toNat)
  | .rst => none
  | _ => if (pushedBy i s).isEmpty then age else some 0

/-- R224 and C4, how the host keeps the settle time: "between the end of the last byte and the edge" it leaves "more than
the longest time the sequencer can take from one `STEP` to the next", `bound`. That no two `STEP`s are further apart is
`stepGapsWithin bound`. -/
def gapBeforeEdge (bound : Nat) : Option Nat → List Instr → State → Bool
  | _, [], _ => true
  | age, i :: rest, s =>
    (!isEdge i s || age.all (bound < ·)) &&
      match exec i s with
      | .next t => gapBeforeEdge bound (byteAgeAfter age i s) rest t
      | .fault _ => true
      | .refused _ => true

/-- R225, quiet time: along the run "no byte of the next frame may be popped before the `BEND` that ends the servicing of
the edge". Of that time a byte can be popped only while the edge is flagged, since `SVC` to `BEND` are not step A; a
pop is then of the frame that ended while `old`, the bytes in the FIFO that came before the edge, is not 0. An edge
that finds the flag set is collapsed into the one flagged (R146). Whatever is popped before the edge is allowed (R127),
and so is a byte that waits in the FIFO during servicing. -/
def dutyQuiet : Nat → List Instr → State → Bool
  | _, [], _ => true
  | old, i :: rest, s =>
    (resolvesElse .drain i s || !s.syncflag || old != 0) &&
      match exec i s with
      | .next t => dutyQuiet (bytesBeforeEdge (isEdge i s && !s.syncflag) old i s) rest t
      | .fault _ => true
      | .refused _ => true

/-- R225, how the host keeps the quiet time: it "must send nothing from the edge until the node has left step A" of the
iteration that services it. While an edge is flagged the node has left step A only in phase B. -/
def sendsQuiet (i : Instr) (s : State) : Bool := (pushedBy i s).isEmpty || !s.syncflag || s.phase == .b

/-- R226, byte rate: no byte is offered to a full FIFO. -/
def dutyRate (i : Instr) (s : State) : Bool := (pushedBy i s).isEmpty || !s.fifoFull

/-- R227, R241, edge spacing: an edge comes only when no edge is flagged and none is being serviced. -/
def dutySpacing (i : Instr) (s : State) : Bool :=
  !isEdge i s || (!s.syncflag && s.phase != .bapply && s.phase != .bend)

/-- R236, U2: no edge comes in the middle of a byte. -/
def edgeBetweenBytes (i : Instr) (s : State) : Bool := !isEdge i s || s.bitcnt == 0

/-- R237: every high phase of the sync input that ends in the run lasts at least `least` microseconds. The second
argument is how long the input has been high, if it is. Whether a high phase goes on over an `RST` inside a run the spec
leaves open; that it ends there unmeasured, and the next `SYNC 1` begins a new one, is the model's choice, after
`SYNCLVL` = 0 at reset (DESIGN CHOICE, log 32). -/
def syncHighLongEnough (least : Nat) : Option Nat → List Instr → Bool
  | _, [] => true
  | _, .rst :: rest => syncHighLongEnough least none rest
  | none, .sync true :: rest => syncHighLongEnough least (some 0) rest
  | some h, .sync false :: rest => decide (least ≤ h) && syncHighLongEnough least none rest
  | some h, .adv d :: rest => syncHighLongEnough least (some (h + d.toNat)) rest
  | level, _ :: rest => syncHighLongEnough least level rest

/-- R222: the sync input is low at a power cycle, as far as the run has driven it; with this premise no high phase meets
an `RST`. -/
def syncLowAtPowerOn (i : Instr) (s : State) : Bool := i != .rst || !s.synclvl

/-- The time since the last `STEP` after the operation `i`, when it was `gap` before. -/
def gapAfter (i : Instr) (gap : Nat) : Nat :=
  match i with
  | .step => 0
  | .adv d => gap + d.toNat
  | _ => gap

/-- R240: the time between two consecutive `STEP`s is at most `bound`; the second argument is the time since the
last one. That an `RST` between them does not end that time is the model's choice (DESIGN CHOICE, log 32). -/
def stepGapsWithin (bound : Nat) : Nat → List Instr → Bool
  | _, [] => true
  | gap, i :: rest => decide (gapAfter i gap ≤ bound) && stepGapsWithin bound (gapAfter i gap) rest

/-- Two states that differ at most in data: the bytes held and received, and the pulse widths (R82, R125). -/
structure SameControl (s t : State) : Prop where
  cfg : s.cfg = t.cfg
  fp : s.fp = t.fp
  syncflag : s.syncflag = t.syncflag
  synccnt : s.synccnt = t.synccnt
  lastsync : s.lastsync = t.lastsync
  lastbyte : s.lastbyte = t.lastbyte
  status : s.status = t.status
  phase : s.phase = t.phase
  chidx : s.chidx = t.chidx
  now : s.now = t.now
  fifo : s.fifo.length = t.fifo.length
  bitcnt : s.bitcnt = t.bitcnt
  sel : s.sel = t.sel
  synclvl : s.synclvl = t.synclvl
  cnt : s.cnt = t.cnt
  ovr : s.ovr = t.ovr

/-- Two operations of a run that differ at most in the bits they bring: the same kind, with the same level of the
sync input and the same time. -/
def sameKind : Instr → Instr → Bool
  | .rxb _, .rxb _ => true
  | .sbit _, .sbit _ => true
  | i, j => isRunOp i && i == j

end Sys2Proof.Machine
end

