-- ==== Sys2Proof/Certificates/Slice0/Obligations.lean ====
section
/-! DEFINITION. The statements for the provers, by topic: encodings, reset and invariant, the serial line, step A, the
sync input, step B, step C, time and pulses, the sequencer, ownership of the state, and behaviour over runs. -/

open Sys2Proof Sys2Proof.Machine

/-! ### Encodings -/

/-- Words written out from the table of R84, bytes from R82 and samples from R80 decode to the operations they stand
for. The trace word is the spec's own notation (D13). -/
def Obligations.WrittenCodesDecode : Prop :=
  decode (.trace 0b00010000000000000000000011000101#32) = .ok (.rxb 0xC5#8) ∧
  decode (.trace 0b00100000000000000000000000000001#32) = .ok (.sbit true) ∧
  decode (.trace 0b00110000000000000000000000000000#32) = .ok .csa ∧
  decode (.trace 0b01000000000000000000000000000000#32) = .ok .csd ∧
  decode (.trace 0b01010000000000000000000000000001#32) = .ok (.sync true) ∧
  decode (.trace 0b01100000000000000100111000100000#32) = .ok (.adv 20000#28) ∧
  decode (.trace 0b01110000000000000000000000000000#32) = .ok .rst ∧
  decode (.trace 0b00000000000000000000000000000000#32) = .ok .step ∧
  decode (.command 0b00000000#8) = .ok .cmdStop ∧
  decode (.command 0b01000000#8) = .ok (.cmdDrive 64#8) ∧
  decode (.serial [true, false, true, false, false, true, false, true]) = .ok (.serialWord 0xA5#8)

/-- Every well-formed operation that has an encoding decodes back from it, whatever its operands; a micro-step's word
spells `STEP`, which the state resolves (R88, R94). The operations without an encoding are the five functions. -/
def Obligations.DecodeOfEncodeIsTheOperation : Prop :=
  ∀ i : Instr, i.wf = true →
    (∃ code, encode i = some code ∧ decode code = .ok i.spelled) ∨
    (encode i = none ∧ ((∃ c us, i = .setPulse c us) ∨ (∃ v, i = .map v) ∨ i = .edgeHandler ∨
      (∃ v, i = .fifoPush v) ∨ ∃ d, i = .pwmAdvance d))

/-- A code has one meaning: what a code decodes to is well formed, spells itself, and encodes to that code again, so no
code with a nonzero must-be-zero bit, with `ADV` of 0, or of a wrong length decodes (R84, R90). -/
def Obligations.DecodedCodeIsTheCodeOfItsOperation : Prop :=
  ∀ (code : Code) (i : Instr), decode code = .ok i → i.wf = true ∧ i.spelled = i ∧ encode i = some code

/-- The decoder agrees with the masks and patterns of `opcode_table.json`, row by row, on every 32-bit word. -/
def Obligations.TraceWordsDecodeByMaskAndMatch : Prop :=
  ∀ w : TraceWord,
    (decode (.trace w) = .ok .step ↔ w = 0x00000000#32) ∧
    (∀ v : Byte, decode (.trace w) = .ok (.rxb v) ↔ w &&& 0xFFFFFF00#32 = 0x10000000#32 ∧ v.toNat = w.toNat % 256) ∧
    (∀ b : Bool, decode (.trace w) = .ok (.sbit b) ↔ w &&& 0xFFFFFFFE#32 = 0x20000000#32 ∧ b.toNat = w.toNat % 2) ∧
    (decode (.trace w) = .ok .csa ↔ w = 0x30000000#32) ∧
    (decode (.trace w) = .ok .csd ↔ w = 0x40000000#32) ∧
    (∀ l : Bool, decode (.trace w) = .ok (.sync l) ↔ w &&& 0xFFFFFFFE#32 = 0x50000000#32 ∧ l.toNat = w.toNat % 2) ∧
    (∀ d : BitVec 28, decode (.trace w) = .ok (.adv d) ↔
      w &&& 0xF0000000#32 = 0x60000000#32 ∧ d.toNat = w.toNat % 268435456 ∧ d ≠ 0#28) ∧
    (decode (.trace w) = .ok .rst ↔ w = 0x70000000#32)

/-- A step performs the operation that the next trace word spells, with that word taken from the pending trace; with no
word pending the sequencer takes its turn (the model's choice, log 2). -/
def Obligations.StepRunsTheDecodedOperation : Prop :=
  (∀ (s : State) (w : TraceWord) (rest : List TraceWord) (i : Instr),
    s.trace = w :: rest → decode (.trace w) = .ok i → step s = exec i { s with trace := rest }) ∧
  (∀ s : State, s.trace = [] → step s = exec .step s)

/-- R90 and U10: a step refuses a trace word with `op` in 0x8..0xF, with a nonzero bit in a field that must be 0, or
`ADV` with `d` = 0. -/
def Obligations.WordsThatSpellNothingAreRefused : Prop :=
  ∀ (s : State) (w : TraceWord) (rest : List TraceWord), s.trace = w :: rest →
    let op := w.toNat / 268435456
    let arg := w.toNat % 268435456
    (8 ≤ op ∨ ((op = 0 ∨ op = 3 ∨ op = 4 ∨ op = 7) ∧ arg ≠ 0) ∨ (op = 1 ∧ 256 ≤ arg) ∨
      ((op = 2 ∨ op = 5) ∧ 2 ≤ arg) ∨ (op = 6 ∧ arg = 0)) →
    ∃ why, step s = .refused (.notAnOperation why)

/-! ### Reset and the invariant -/

/-- The table of R40, for every configuration and every clock value `T0`. Several of its values are the spec's own
choice (D12). The last two lines are the model's own fields (log 1, log 6). -/
def Obligations.PowerOnGivesTheResetTable : Prop :=
  ∀ (g : Config) (t0 : Nat), ∃ s, State.powerOn g t0 = s ∧ s.cfg = g ∧
    (∀ c : Chan, s.pend[c] = 0#8 ∧ s.actv[c] = 0#8 ∧ s.cmp[c] = 1000 ∧ s.live[c] = 1000 ∧
      s.cnt[c] = g.pwmPhase0[c]) ∧
    s.fp = 0 ∧ s.syncflag = false ∧ s.synccnt = 0 ∧ s.status = false ∧ s.phase = .a ∧ s.chidx = 0 ∧
    s.now = t0 ∧ s.lastsync = t0 ∧ s.lastbyte = t0 ∧ s.fifo = [] ∧ s.sr = 0#8 ∧ s.bitcnt = 0 ∧ s.sel = false ∧
    s.synclvl = false ∧ s.ovr = false ∧
    s.trace = [] ∧ s.draws = 0

/-- `RST` completes in every state and leaves the table of R40 for the same configuration and some `T0` (R181); the
pending trace and the count of draws are the model's own (log 1, log 6). -/
def Obligations.RstIsAPowerCycle : Prop :=
  ∀ s : State, ∃ t0 : Nat,
    exec .rst s = .next { State.powerOn s.cfg t0 with trace := s.trace, draws := s.draws + 1 }

/-- The invariant of R42 holds after power-on with admissible parameters, at `State.reset` among them, and so does the
invariant of the written commands. -/
def Obligations.PowerOnMeetsTheInvariant : Prop :=
  (∀ (g : Config) (t0 : Nat), g.Ok → (State.powerOn g t0).Inv ∧ (State.powerOn g t0).CommandsFollowPhase) ∧
  State.reset.Inv ∧ State.reset.CommandsFollowPhase

/-- Every operation keeps the invariant of R42: the 26 of the table, the called functions and wire formats too. -/
def Obligations.EveryOperationKeepsTheInvariant : Prop :=
  ∀ (i : Instr) (s t : State), s.Inv → exec i s = .next t → t.Inv

/-- Every step keeps the invariant of R42, whatever the pending trace. -/
def Obligations.EveryStepKeepsTheInvariant : Prop :=
  ∀ s t : State, s.Inv → step s = .next t → t.Inv

/-- The constants are hardwired: no operation writes one (R37, R74). -/
def Obligations.NoOperationWritesTheConfiguration : Prop :=
  ∀ (i : Instr) (s t : State), exec i s = .next t → t.cfg = s.cfg

/-! ### Serial line -/

/-- `FifoPush(v)` and `RXB v` (R122, R123): at the tail when there is room, else lost with the mark `OVR` (D5). -/
def Obligations.ArrivingByteIsQueuedOrMarked : Prop :=
  ∀ (v : Byte) (s : State),
    (s.fifo.length < s.cfg.fifoDepth →
      exec (.rxb v) s = .next { s with fifo := s.fifo ++ [v] } ∧
      exec (.fifoPush v) s = .next { s with fifo := s.fifo ++ [v] }) ∧
    (s.cfg.fifoDepth ≤ s.fifo.length →
      exec (.rxb v) s = .next { s with ovr := true } ∧
      exec (.fifoPush v) s = .next { s with ovr := true })

/-- `SBIT b` (R120): ignored while not selected; else shifted in below the seven low bits of `SR`, and the bit that
finds `BITCNT` = 7 completes a byte, which is queued or lost (D6). -/
def Obligations.SerialBitIsShiftedInWhileSelected : Prop :=
  ∀ (b : Bool) (s : State),
    let sr : Byte := BitVec.ofNat 8 (s.sr.toNat % 128 * 2 + b.toNat)
    (s.sel = false → exec (.sbit b) s = .next s) ∧
    (s.sel = true → s.bitcnt ≠ 7 → exec (.sbit b) s = .next { s with sr := sr, bitcnt := s.bitcnt + 1 }) ∧
    (s.sel = true → s.bitcnt = 7 → s.fifo.length < s.cfg.fifoDepth →
      exec (.sbit b) s = .next { s with sr := sr, bitcnt := 0, fifo := s.fifo ++ [sr] }) ∧
    (s.sel = true → s.bitcnt = 7 → s.cfg.fifoDepth ≤ s.fifo.length →
      exec (.sbit b) s = .next { s with sr := sr, bitcnt := 0, ovr := true })

/-- `CSA` and `CSD` (R121): the level is taken and the bit count restarts, so a partial byte is never pushed (D6). -/
def Obligations.ChipSelectRestartsTheBitCount : Prop :=
  ∀ s : State,
    exec .csa s = .next { s with sel := true, bitcnt := 0 } ∧ exec .csd s = .next { s with sel := false, bitcnt := 0 }

/-- `SERIALWORD` (R80, R120): eight bits from `BITCNT` = 0 while selected have exactly the effect of one `RXB` of the
byte they spell, bit 7 first, and leave the byte in `SR`; while not selected they have none; and they complete in every
state (D6). -/
def Obligations.EightBitsMakeOneByte : Prop :=
  (∀ (v : Byte) (s : State), s.sel = true → s.bitcnt = 0 →
    ∃ t, exec (.rxb v) s = .next t ∧ exec (.serialWord v) s = .next { t with sr := v }) ∧
  (∀ (v : Byte) (s : State), s.sel = false → exec (.serialWord v) s = .next s) ∧
  (∀ (v : Byte) (s : State), ∃ t, exec (.serialWord v) s = .next t)

/-- `FRAME` (R81, R93): its bytes are queued in the order of position as far as there is room, and the rest is lost with
the mark `OVR` (D5). -/
def Obligations.FrameBytesAreQueuedInOrder : Prop :=
  ∀ (bytes : Vector Byte 36) (s : State),
    exec (.frame bytes) s = .next { s with
      fifo := s.fifo ++ bytes.toList.take (s.cfg.fifoDepth - s.fifo.length)
      ovr := s.ovr || decide (s.cfg.fifoDepth < s.fifo.length + 36) }

/-! ### Step A -/

/-- R124: `DRAIN` pops the oldest byte, stamps `LASTBYTE`, counts the byte up to 36, and stores it at offset
`idx − MY_START` when `MY_START ≤ idx < MY_END`, with `MY_START` = 9 × `NODE_ID`; nothing else changes, nothing is
transmitted, and `STEP` in that state is this `DRAIN`. -/
def Obligations.DrainPopsCountsAndFilters : Prop :=
  ∀ (s : State) (b : Byte) (rest : List Byte), s.phase = .a → s.fifo = b :: rest →
    let start := s.cfg.nodeId.val * 9
    ∃ t, exec .drain s = .next t ∧ exec .step s = .next t ∧ t.miso = none ∧
      t = { s with
        fifo := rest
        lastbyte := s.now
        fp := if s.fp < 36 then s.fp + 1 else s.fp
        pend := if h : start ≤ s.fp ∧ s.fp < start + 9 then s.pend.set (s.fp - start) b else s.pend }

/-- R125: for node k the bytes stored are exactly those counted at 9k .. 9k + 8, at offsets 0..8 in order, whatever
their value. -/
def Obligations.FilterStoresTheNodesOwnPositions : Prop :=
  ∀ (s : State) (b : Byte) (rest : List Byte), s.phase = .a → s.fifo = b :: rest →
    ∃ t, exec .drain s = .next t ∧ myStart s.cfg = 9 * s.cfg.nodeId.val ∧ myEnd s.cfg = 9 * s.cfg.nodeId.val + 9 ∧
      ∀ i : Chan, t.pend[i] = if s.fp = 9 * s.cfg.nodeId.val + i.val then b else s.pend[i]

/-- `DRAINX` (R126) and `BEND` (R145) in the states that select them: only the phase moves, and `BEND` resets the frame
position. The micro-steps are the spec's granularity (D9). -/
def Obligations.DrainxAndBendMoveThePhase : Prop :=
  ∀ s : State,
    (s.phase = .a → s.fifo = [] → exec .drainx s = .next { s with phase := .b }) ∧
    (s.phase = .bend → exec .bend s = .next { s with fp := 0, phase := .c })

/-! ### Sync input and step B -/

/-- `EdgeHandler()` (R141): sets the flag and counts; the twentieth edge inverts `STATUS`, whichever writer wrote it
(D22), and the count returns to 0. The sequencer's position and all else are unchanged (R201). -/
def Obligations.EdgeHandlerFlagsCountsAndToggles : Prop :=
  ∀ s : State,
    (s.synccnt + 1 = 20 →
      exec .edgeHandler s = .next { s with syncflag := true, status := !s.status, synccnt := 0 }) ∧
    (s.synccnt + 1 ≠ 20 → exec .edgeHandler s = .next { s with syncflag := true, synccnt := s.synccnt + 1 })

/-- `SYNC l` (R140): only a low-to-high transition runs the handler; any level is remembered (D7). -/
def Obligations.OnlyARisingEdgeRunsTheHandler : Prop :=
  ∀ s : State,
    (s.synclvl = false →
      ∃ t, exec .edgeHandler s = .next t ∧ exec (.sync true) s = .next { t with synclvl := true }) ∧
    (s.synclvl = true → exec (.sync true) s = .next s) ∧
    exec (.sync false) s = .next { s with synclvl := false }

/-- R142: with the flag clear, step B changes the phase alone. -/
def Obligations.NoEdgeMeansNoService : Prop :=
  ∀ s : State, s.phase = .b → s.syncflag = false →
    exec .nosvc s = .next { s with phase := .c } ∧ exec .step s = .next { s with phase := .c }

/-- R143: `SVC` clears the flag, stamps `LASTSYNC` with `NOW`, copies all of `PEND`, and starts at channel 0. -/
def Obligations.ServiceTakesTheSnapshot : Prop :=
  ∀ s : State, s.phase = .b → s.syncflag = true →
    ∃ t, t = { s with syncflag := false, lastsync := s.now, actv := s.pend, chidx := 0, phase := .bapply } ∧
      exec .svc s = .next t ∧ exec .step s = .next t

/-- `BAPPLY` (R144): the command register of channel `CHIDX` takes `Map(ACTV[CHIDX])`, and the next channel, or `BEND`
after channel 8, follows. Nothing else changes, the output's `LIVE` and `CNT` included (D9). -/
def Obligations.BapplyMapsOneLatchedByte : Prop :=
  ∀ s : State, s.phase = .bapply →
    (s.chidx.val < 8 → ∃ n : Chan, n.val = s.chidx.val + 1 ∧
      exec .bapply s = .next { s with cmp := s.cmp.set s.chidx (mapUs s.actv[s.chidx]), chidx := n }) ∧
    (s.chidx.val = 8 →
      exec .bapply s = .next { s with
        cmp := s.cmp.set s.chidx (mapUs s.actv[s.chidx]), chidx := 0, phase := .bend })

/-- `CMD.STOP` and `CMD.DRIVE v` (R82, R88): where `BAPPLY` reads that byte the pulse is 1000, or
1200 + floor(v × 800 / 255), and the operation is that `BAPPLY`; where it does not, the form is refused (the model's
reading of these two rows, log 17). -/
def Obligations.CommandFormsAreTheirBapply : Prop :=
  ∀ s : State,
    (s.phase = .bapply → s.actv[s.chidx] = 0#8 →
      exec .cmdStop s = exec .bapply s ∧ ∃ t, exec .cmdStop s = .next t ∧ t.cmp = s.cmp.set s.chidx 1000) ∧
    (∀ v : Byte, v ≠ 0#8 → s.phase = .bapply → s.actv[s.chidx] = v →
      exec (.cmdDrive v) s = exec .bapply s ∧
      ∃ t, exec (.cmdDrive v) s = .next t ∧ t.cmp = s.cmp.set s.chidx (1200 + v.toNat * 800 / 255)) ∧
    (¬(s.phase = .bapply ∧ s.actv[s.chidx] = 0#8) → exec .cmdStop s = .refused (.commandNotRead 0#8)) ∧
    (∀ v : Byte, ¬(v ≠ 0#8 ∧ s.phase = .bapply ∧ s.actv[s.chidx] = v) →
      exec (.cmdDrive v) s = .refused (.commandNotRead v))

/-! ### Step C -/

/-- R156: the watchdog compares strictly; a stale node goes to the safe-state action at channel 0, a fresh one ends the
iteration. -/
def Obligations.WatchdogTriggersOnlyAboveTheTimeout : Prop :=
  ∀ s : State, s.phase = .c →
    (s.now - s.lastsync > 200000 →
      exec .wdg s = .next { s with chidx := 0, phase := .capply } ∧
      exec .step s = .next { s with chidx := 0, phase := .capply }) ∧
    (s.now - s.lastsync ≤ 200000 →
      exec .wdg s = .next { s with phase := .a } ∧ exec .step s = .next { s with phase := .a })

/-- `CAPPLY` (R157): the command register of channel `CHIDX` takes 1000; the next channel, or `CIND` after channel 8,
follows (D9, D15). -/
def Obligations.CapplyForcesOneChannelIdle : Prop :=
  ∀ s : State, s.phase = .capply →
    (s.chidx.val < 8 → ∃ n : Chan, n.val = s.chidx.val + 1 ∧
      exec .capply s = .next { s with cmp := s.cmp.set s.chidx 1000, chidx := n }) ∧
    (s.chidx.val = 8 →
      exec .capply s = .next { s with cmp := s.cmp.set s.chidx 1000, chidx := 0, phase := .cind })

/-- `CIND` (R158): `STATUS` takes `floor(NOW / FAULT_HALF_US) mod 2`, a wave that inverts after every half period; the
formula is the spec's own (D11), and that the half period is at least 1 is the model's premise (log 30). -/
def Obligations.CindDrivesTheFaultWave : Prop :=
  (∀ s : State, s.phase = .cind →
    exec .cind s = .next { s with status := decide (s.now / s.cfg.faultHalfUs % 2 = 1), phase := .a }) ∧
  (∀ (g : Config) (now : Nat), 1 ≤ g.faultHalfUs → faultWave g (now + g.faultHalfUs) = !faultWave g now)

/-! ### Time and pulses -/

/-- `SetPulse(i, us)` (R100): clamps into 1000..2000 and writes `CMP[i]` alone; a channel of 9 or more is refused
(D20). -/
def Obligations.SetPulseClampsIntoTheCommand : Prop :=
  ∀ (i us : Nat) (s : State),
    (∀ h : i < 9, (us < 1000 → exec (.setPulse i us) s = .next { s with cmp := s.cmp.set i 1000 }) ∧
      (1000 ≤ us → us ≤ 2000 → exec (.setPulse i us) s = .next { s with cmp := s.cmp.set i us }) ∧
      (2000 < us → exec (.setPulse i us) s = .next { s with cmp := s.cmp.set i 2000 })) ∧
    (9 ≤ i → exec (.setPulse i us) s = .refused (.channelOutOfRange i))

/-- R110: `Map` is the formula, chosen by the command form, and reads and writes no state; `BAPPLY` calls it with
`ACTV[CHIDX]`; 0 gives 1000, 1 gives 1203, 255 gives 2000, and no byte gives a width in 1001..1202. -/
def Obligations.MapIsTheFormulaAndTouchesNoState : Prop :=
  ∀ (v : Byte) (s : State),
    exec (.map v) s = .next s ∧
    (v = 0#8 → mapUs v = 1000 ∧ decode (.command v) = .ok .cmdStop) ∧
    (v ≠ 0#8 → mapUs v = min (1200 + v.toNat * (2000 - 1200) / 255) 2000 ∧
      mapUs v = min (1200 + v.toNat * 800 / 255) 2000 ∧ decode (.command v) = .ok (.cmdDrive v)) ∧
    (s.phase = .bapply → ∃ t, exec .bapply s = .next t ∧ t.cmp[s.chidx] = mapUs s.actv[s.chidx]) ∧
    mapUs 1#8 = 1203 ∧ mapUs 255#8 = 2000 ∧ mapUs 128#8 = 1601 ∧ ¬(1001 ≤ mapUs v ∧ mapUs v ≤ 1202)

/-- R111: for every v in 1..255 the clamp to `MAX_US` in `Map` never changes the result. -/
def Obligations.ClampInMapIsRedundant : Prop :=
  ∀ v : Byte, v ≠ 0#8 → v.toNat * 800 / 255 ≤ 800 ∧ mapUs v = 1200 + v.toNat * 800 / 255

/-- The document's P1 and the stronger facts of R113: strictly increasing on 0..255, steps of 3 or 4 on 1..255, and
inside the clamp range of `SetPulse`, which therefore stores `Map(v)` unchanged; `Map(0)` = 1000, `Map(255)` = 2000. -/
def Obligations.MapIsStrictlyIncreasing : Prop :=
  mapUs 0#8 = 1000 ∧ mapUs 255#8 = 2000 ∧
  (∀ v w : Byte, v.toNat < w.toNat → mapUs v < mapUs w) ∧
  (∀ v w : Byte, v ≠ 0#8 → w.toNat = v.toNat + 1 → mapUs w = mapUs v + 3 ∨ mapUs w = mapUs v + 4) ∧
  (∀ v : Byte, v ≠ 0#8 → 1200 ≤ mapUs v ∧ mapUs v ≤ 2000) ∧
  (∀ (v : Byte) (i : Chan) (s : State), exec (.setPulse i.val (mapUs v)) s = .next { s with cmp := s.cmp.set i (mapUs v) })

/-- `PwmAdvance(d)` (R102, R103): each counter moves by `d` modulo the period, and a channel's `LIVE` takes its command
exactly when its counter wraps; nothing else changes (the counters are the spec's own, D10). -/
def Obligations.PwmAdvanceLatchesAtTheWrap : Prop :=
  ∀ (d : BitVec 28) (s : State), ∃ t, exec (.pwmAdvance d) s = .next t ∧ t = { s with live := t.live, cnt := t.cnt } ∧
    ∀ c : Chan, t.cnt[c] = (s.cnt[c] + d.toNat) % s.cfg.pwmPeriodUs ∧
      (s.cnt[c] + d.toNat < s.cfg.pwmPeriodUs → t.live[c] = s.live[c]) ∧
      (s.cfg.pwmPeriodUs ≤ s.cnt[c] + d.toNat → t.live[c] = s.cmp[c])

/-- `ADV d` (R179): time moves by `d` and the pulse counters with it; `d` = 0 is no operation and is refused (R90). The
time base is the spec's own (D3). -/
def Obligations.AdvMovesTimeAndTheCounters : Prop :=
  ∀ (d : BitVec 28) (s : State),
    (d ≠ 0#28 →
      ∃ t, exec (.pwmAdvance d) s = .next t ∧ exec (.adv d) s = .next { t with now := s.now + d.toNat }) ∧
    (d = 0#28 → exec (.adv d) s = .refused (.notAnOperation .advZero))

/-- R180: `ADV a` followed at once by `ADV b` leaves the same state as `ADV (a + b)`, in every state whose counters are
below the period. -/
def Obligations.AdvIsAdditive : Prop :=
  ∀ (a b : BitVec 28) (s : State), a ≠ 0#28 → b ≠ 0#28 → a.toNat + b.toNat < 268435456 →
    (∀ c : Chan, s.cnt[c] < s.cfg.pwmPeriodUs) →
    runOps [.adv a, .adv b] s = exec (.adv (a + b)) s

/-- R104: in the period that starts at a wrap, the output of a channel is high in exactly `LIVE[c]` of the
`PWM_PERIOD_US` microsecond instants, the first ones, whatever is commanded meanwhile being absent. -/
def Obligations.PulseIsHighForLiveMicroseconds : Prop :=
  ∀ (s : State) (c : Chan), s.cnt[c] = 0 → s.live[c] ≤ s.cfg.pwmPeriodUs →
    ((List.range s.cfg.pwmPeriodUs).filter fun d => (advance d s).pwmOut c).length = s.live[c] ∧
    ∀ d : BitVec 28, d ≠ 0#28 → d.toNat < s.cfg.pwmPeriodUs →
      ∃ t, exec (.adv d) s = .next t ∧ t.pwmOut c = decide (d.toNat < s.live[c])

/-! ### The sequencer -/

/-- The dispatch of `STEP` (R88, R175): `STEP` is always enabled and is the micro-step its row names (D9). -/
def Obligations.StepIsTheMicroStepOfItsRow : Prop :=
  ∀ s : State, (∃ t, exec .step s = .next t) ∧
    (s.phase = .a → s.fifo ≠ [] → exec .step s = exec .drain s) ∧
    (s.phase = .a → s.fifo = [] → exec .step s = exec .drainx s) ∧
    (s.phase = .b → s.syncflag = true → exec .step s = exec .svc s) ∧
    (s.phase = .b → s.syncflag = false → exec .step s = exec .nosvc s) ∧
    (s.phase = .bapply → exec .step s = exec .bapply s) ∧
    (s.phase = .bend → exec .step s = exec .bend s) ∧
    (s.phase = .c → exec .step s = exec .wdg s) ∧
    (s.phase = .capply → exec .step s = exec .capply s) ∧
    (s.phase = .cind → exec .step s = exec .cind s)

/-- "Mutually exclusive and exhaustive" (R88): in every state exactly one of the nine micro-steps runs. A listing that
names another is an error of the listing (R94); that `exec` then refuses it is the model's choice (log 16). -/
def Obligations.ExactlyOneMicroStepRuns : Prop :=
  ∀ s : State, ∃ m : MicroStep, (∃ t, exec m.instr s = .next t) ∧
    ∀ m' : MicroStep, m' ≠ m → exec m'.instr s = .refused (.notSelected m')

/-- R8, R182: every operation of a run, a later `RST` among them, is enabled in every state for every operand value, so
any finite or infinite sequence of them runs; the interleaving is the spec's own level of description (D1). -/
def Obligations.EveryRunCompletes : Prop :=
  (∀ (ops : List Instr) (s : State), ops.all isTraceOp = true → ∃ t, runOps ops s = .next t) ∧
  (∀ (ops : Nat → Instr) (s : State), ops 0 = .rst → (∀ n, isTraceOp (ops n) = true) →
    ∃ states, states 0 = s ∧ InfiniteRun ops states)

/-! ### Who writes what (R20, R69, R70, R205) -/

/-- The sequencer's private state (R70): from one power-on to the next only the named micro-steps write `PEND`, `FP`, `LASTBYTE`, `ACTV`,
`LASTSYNC`, `CMP`, and only `STEP` writes `PHASE` and `CHIDX` (R20). -/
def Obligations.OnlyTheSequencerWritesItsRegisters : Prop :=
  ∀ (i : Instr) (s t : State), isRunOp i = true → exec i s = .next t →
    (resolvesTo .drain i s = false → t.pend = s.pend ∧ t.lastbyte = s.lastbyte) ∧
    (resolvesTo .drain i s = false → resolvesTo .bend i s = false → t.fp = s.fp) ∧
    (resolvesTo .svc i s = false → t.actv = s.actv ∧ t.lastsync = s.lastsync) ∧
    (resolvesTo .bapply i s = false → resolvesTo .capply i s = false → t.cmp = s.cmp) ∧
    (i ≠ .step → t.phase = s.phase ∧ t.chidx = s.chidx)

/-- The serial line's state (R20, R70): only `SBIT` writes `SR`; only `SBIT`, `CSA`, `CSD` write `BITCNT`; only `CSA`,
`CSD` write `SEL`; only `RXB` and `SBIT` set `OVR`, and nothing before the next power-on clears it (R39); only they add
to the FIFO, at its tail the one byte they complete, if there is room, and only `DRAIN` takes from it, the byte at its
head. -/
def Obligations.OnlyTheSerialLineWritesTheReceiver : Prop :=
  ∀ (i : Instr) (s t : State), isRunOp i = true → exec i s = .next t →
    ((∀ b, i ≠ .sbit b) → t.sr = s.sr ∧ (i ≠ .csa → i ≠ .csd → t.bitcnt = s.bitcnt)) ∧
    (i ≠ .csa → i ≠ .csd → t.sel = s.sel) ∧
    ((∀ b, i ≠ .sbit b) → (∀ v, i ≠ .rxb v) → t.ovr = s.ovr) ∧ (s.ovr = true → t.ovr = true) ∧
    ((∀ b, i ≠ .sbit b) → (∀ v, i ≠ .rxb v) → i ≠ .step → t.fifo = s.fifo) ∧
    (i ≠ .step → t.fifo = if s.fifo.length < s.cfg.fifoDepth then s.fifo ++ pushedBy i s else s.fifo) ∧
    (i = .step → s.fifo = poppedBy i s ++ t.fifo) ∧ (resolvesTo .drain i s = false → poppedBy i s = [])

/-- The shared state (R69, R205): `SYNCCNT` and `SYNCLVL` are written by `SYNC` alone; `SYNCFLAG` is set by `SYNC` and
cleared by `SVC`; `STATUS` is written by `SYNC` and by `CIND`, its two writers (R28, R200). -/
def Obligations.SharedRegistersHaveTheirWriters : Prop :=
  ∀ (i : Instr) (s t : State), isRunOp i = true → exec i s = .next t →
    ((∀ l, i ≠ .sync l) → t.synccnt = s.synccnt ∧ t.synclvl = s.synclvl ∧
      (resolvesTo .svc i s = false → t.syncflag = s.syncflag) ∧
      (resolvesTo .cind i s = false → t.status = s.status)) ∧
    (s.syncflag = true → t.syncflag = false → resolvesTo .svc i s = true) ∧
    (resolvesTo .svc i s = true → t.syncflag = false)

/-- Time's state (R20, R30, R106): only `ADV` writes `NOW`, `LIVE` and `CNT` from one power-on to the next, and `NOW`
never decreases. -/
def Obligations.OnlyTimeMovesTheClockAndThePulses : Prop :=
  ∀ (i : Instr) (s t : State), isRunOp i = true → exec i s = .next t →
    ((∀ d, i ≠ .adv d) → t.now = s.now ∧ t.live = s.live ∧ t.cnt = s.cnt) ∧ s.now ≤ t.now

/-! ### Behaviour over runs -/

/-- R61, R124, R127, R128 over every interleaving: in a run with no `BEND` from frame position 0, `PEND[i]` is the byte
popped at position 9 × `NODE_ID` + i if that many were popped and its old value if not, and `FP` is the number of bytes
popped, saturating at 36. -/
def Obligations.PoppedBytesFillTheSliceByPosition : Prop :=
  ∀ (ops : List Instr) (s t : State), ops.all isRunOp = true → everyOp (resolvesElse .bend) ops s = true →
    s.fp = 0 → runOps ops s = .next t →
    t.fp = min 36 (popped ops s).length ∧
    ∀ i : Chan, t.pend[i] = ((popped ops s)[9 * s.cfg.nodeId.val + i.val]?).getD s.pend[i]

/-- The receive FIFO is first-in first-out (R31): in a run without overrun, the bytes held and offered are, in order, the
bytes popped and still held (the mark `OVR` is the spec's own, D5). -/
def Obligations.FifoKeepsTheOrderOfArrival : Prop :=
  ∀ (ops : List Instr) (s t : State), ops.all isRunOp = true → runOps ops s = .next t → t.ovr = false →
    s.fifo ++ pushed ops s = popped ops s ++ t.fifo

/-- The document's P2 with the premises of R148, over every interleaving: when an edge is serviced after 36 bytes of its
frame were popped since the frame position was 0 (duty R224), `ACTV[i]` is the byte at global position
`NODE_ID` × 9 + i; and without overrun that is the byte at that place among those held at the start and offered since. -/
def Obligations.SnapshotHoldsTheNodesSliceOfTheFrame : Prop :=
  ∀ (ops : List Instr) (s t : State), ops.all isRunOp = true → everyOp (resolvesElse .bend) ops s = true →
    s.fp = 0 → runOps ops s = .next t → t.selected = .svc → t.fp = 36 →
    ∃ u, exec .step t = .next u ∧ ∀ i : Chan,
      some u.actv[i] = (popped ops s)[s.cfg.nodeId.val * 9 + i.val]? ∧
      (t.ovr = false → some u.actv[i] = (s.fifo ++ pushed ops s)[s.cfg.nodeId.val * 9 + i.val]?)

/-- R147, over every interleaving: whatever the other agents do between the nine `BAPPLY` steps that follow an `SVC`,
afterwards `CMP[i] = Map(p[i])` for all i, where p is the `PEND` that the `SVC` saw, and the sequencer is at `BEND`. -/
def Obligations.NinePulsesComeFromOneSnapshot : Prop :=
  ∀ (ops : List Instr) (s : State), s.selected = .svc → ops.all isRunOp = true → ops.count .step = 9 →
    ∃ t, runOps (.step :: ops) s = .next t ∧ t.phase = .bend ∧ t.actv = s.pend ∧
      ∀ i : Chan, t.cmp[i] = mapUs s.pend[i]

/-- R161, the document's P5 made exact, over every interleaving: from a stale node at its watchdog check, any run with
at least ten `STEP`s and no servicing ends with every command at 1000, and so does every longer one. -/
def Obligations.StaleNodeGoesIdleAndStaysIdle : Prop :=
  ∀ (ops : List Instr) (s : State), s.phase = .c → s.stale = true → ops.all isRunOp = true →
    everyOp (resolvesElse .svc) ops s = true → 10 ≤ ops.count .step →
    ∃ t, runOps ops s = .next t ∧ ∀ c : Chan, t.cmp[c] = 1000

/-- The document's P4: from any state at the top of the loop with an empty FIFO and the sync input low, whatever the
frame position and the buffers hold, one serviced edge realigns, and the next full frame, each byte drained as it comes,
is latched and applied position by position at the edge that follows (R129, R145, R65). -/
def Obligations.ServicedEdgeRealignsTheNextFrame : Prop :=
  ∀ (bytes : Vector Byte 36) (s : State), s.phase = .a → s.fifo = [] → s.synclvl = false → 1 ≤ s.cfg.fifoDepth →
    ∃ t, runOps (opsEdge ++ List.replicate 13 .step ++ opsDrained bytes.toList ++
        opsEdge ++ List.replicate 13 .step) s = .next t ∧
      t.phase = .a ∧ t.fp = 0 ∧ t.fifo = [] ∧ t.ovr = s.ovr ∧ t.syncflag = false ∧ t.lastsync = s.now ∧
      ∀ (i : Chan) (g : Fin 36), g.val = 9 * s.cfg.nodeId.val + i.val →
        t.pend[i] = bytes[g] ∧ t.actv[i] = bytes[g] ∧ t.cmp[i] = mapUs bytes[g]

/-- R146 and R166: n edges before any servicing leave one flag, the count advances by n modulo 20, and `STATUS` inverts
at every passage through 20; nothing else changes. -/
def Obligations.EdgesCollapseButAreCounted : Prop :=
  ∀ (n : Nat) (s : State), s.synclvl = false → s.synccnt < 20 →
    runOps (List.replicate n opsEdge).flatten s = .next { s with
      syncflag := s.syncflag || decide (0 < n)
      synccnt := (s.synccnt + n) % 20
      status := s.status ^^ decide ((s.synccnt + n) / 20 % 2 = 1) }

/-- R178 and R234: bytes that arrive as fast as they are drained keep the sequencer in step A for ever: no servicing, no
watchdog check, the pulse commands and the flag as they were. -/
def Obligations.ByteStreamStarvesTheLoop : Prop :=
  ∀ (bytes : List Byte) (s : State), s.phase = .a → s.fifo.length < s.cfg.fifoDepth →
    ∃ t, runOps (opsDrained bytes) s = .next t ∧ t.phase = .a ∧ t.fifo.length = s.fifo.length ∧
      t.syncflag = s.syncflag ∧ t.lastsync = s.lastsync ∧ t.cmp = s.cmp ∧ t.actv = s.actv ∧ t.ovr = s.ovr

/-- R183: an iteration that drains b bytes takes b + 3 steps, or b + 13 when it services an edge or finds the node stale,
while no time passes in it. -/
def Obligations.IterationLengthIsFixed : Prop :=
  ∀ s : State, s.phase = .a → ∃ t, t.phase = .a ∧ t.fifo = [] ∧
    iteration s = some (s.fifo.length + (if s.syncflag || s.stale then 13 else 3), t)

/-- R199 and R160: when an edge is flagged and the node is stale in the same iteration, the servicing comes first and the
edge wins: the mapped commands stand, `STATUS` is not driven, and the node is fresh. -/
def Obligations.FlaggedEdgeWinsOverTheWatchdog : Prop :=
  ∀ s : State, s.phase = .a → s.fifo = [] → s.syncflag = true →
    iteration s = some (13, { s with
      syncflag := false, lastsync := s.now, actv := s.pend, chidx := 0, fp := 0
      cmp := Vector.ofFn fun c : Chan => mapUs s.pend[c] })

/-- R159, R202 and R223: an iteration of a stale node with nothing to drain or service writes only the nine commands and
`STATUS`, and an iteration of a fresh one changes nothing. -/
def Obligations.SafeStateWritesCommandsAndStatusAlone : Prop :=
  ∀ s : State, s.phase = .a → s.fifo = [] → s.syncflag = false →
    (s.stale = true → iteration s = some (13, { s with
      chidx := 0, cmp := Vector.replicate 9 1000, status := faultWave s.cfg s.now })) ∧
    (s.stale = false → iteration s = some (3, s))

/-- R62 and R209: four nodes that receive the same 36 bytes, each draining them, together hold the whole frame: the byte
at position g is in node floor(g / 9) at channel g mod 9. -/
def Obligations.FourNodesTogetherHoldTheFrame : Prop :=
  ∀ (bytes : Vector Byte 36) (n : Nodes),
    (∀ k : Fin 4, n.node[k].cfg.nodeId = k ∧ n.node[k].phase = .a ∧ n.node[k].fifo = [] ∧ n.node[k].fp = 0 ∧
      1 ≤ n.node[k].cfg.fifoDepth) →
    ∃ m, nodesRun (bytes.toList.flatMap fun b =>
        [.shared (.rxb b), .own 0 .step, .own 1 .step, .own 2 .step, .own 3 .step]) n = .next m ∧
      ∀ (g : Fin 36) (k : Fin 4) (c : Chan), k.val = nodeOfPosition g.val → c.val = channelOfPosition g.val →
        m.node[k].pend[c] = bytes[g]

/-- R89, R125: no byte value steers the block: two runs of the same kinds of operations from states that differ only in
data go through states that differ only in data. -/
def Obligations.DataNeverSteersControl : Prop :=
  ∀ (ops : List (Instr × Instr)) (s t s' t' : State), (ops.all fun p => isRunOp p.1 && sameKind p.1 p.2) = true →
    SameControl s t → runOps (ops.map Prod.fst) s = .next s' → runOps (ops.map Prod.snd) t = .next t' →
    SameControl s' t'

/-- R240 with R161: under a bound on the time between two steps, a run's time is bounded by its steps, so a stale node at
its watchdog check has all nine commands at 1000 within eleven such bounds, if no edge is serviced. -/
def Obligations.SafeStateTimeIsBoundedBySteps : Prop :=
  (∀ (ops : List Instr) (s t : State) (bound : Nat), ops.all isRunOp = true → stepGapsWithin bound 0 ops = true →
    runOps ops s = .next t → t.now ≤ s.now + (ops.count .step + 1) * bound) ∧
  (∀ (ops : List Instr) (s t : State) (bound : Nat), s.phase = .c → s.stale = true → ops.all isRunOp = true →
    stepGapsWithin bound 0 ops = true → everyOp (resolvesElse .svc) ops s = true → runOps ops s = .next t →
    ops.count .step = 10 → t.now ≤ s.now + 11 * bound ∧ ∀ c : Chan, t.cmp[c] = 1000)

/-- R144, R147, R157 as an invariant of the step: in `BAPPLY` every channel before `CHIDX` has the pulse of its latched
byte, in `BEND` all nine have; in `CAPPLY` and `CIND` likewise the idle pulse. Every step keeps it, whatever trace word
comes, `RST` among them. -/
def Obligations.EveryStepKeepsTheWrittenCommands : Prop :=
  ∀ s t : State, s.CommandsFollowPhase → step s = .next t → t.CommandsFollowPhase

/-- R161 with the fairness premise of R240: in an infinite run in which `STEP` keeps occurring, once the node is found
stale at its watchdog check and is neither serviced nor powered on again, the run comes to the safe state and stays in
it. What "the safe state" of R12 is, is the model's own reading, log 31 (DEDUCED): the nine commands are the idle pulse,
the node is stale, and `CIND` has driven the fault pattern since the last servicing or power-on (`InSafeState`). The
premise names the watchdog check because a byte stream can hold the loop in step A (R178, R234). -/
def Obligations.FairRunReachesTheSafeState : Prop :=
  ∀ (ops : Nat → Instr) (states : Nat → State) (n : Nat), InfiniteRun ops states → stepRecurs ops →
    (states n).phase = .c → (states n).stale = true →
    (∀ k, n ≤ k → ops k ≠ .rst ∧ resolvesElse .svc (ops k) (states k) = true) →
    ∃ m, ∀ k, m ≤ k → InSafeState ((List.range k).map ops) (states 0) (states k)
end

