-- ==== Sys2Proof/Laws/Encoding.lean ====
section
/-! SUPPORT. The fields of a trace word and of its argument, by their numbers, and the fields of what the encoder
writes. -/

namespace Sys2Proof

theorem opOf_toNat (w : TraceWord) : (opOf w).toNat = w.toNat / 268435456 := by
  have := w.isLt
  simp only [opOf, BitVec.extractLsb'_toNat, Nat.shiftRight_eq_div_pow]
  omega

theorem argOf_toNat (w : TraceWord) : (argOf w).toNat = w.toNat % 268435456 := by
  simp only [argOf, BitVec.extractLsb'_toNat, Nat.shiftRight_eq_div_pow]
  omega

theorem traceWord_toNat (op : BitVec 4) (arg : BitVec 28) :
    (traceWord op arg).toNat = op.toNat * 268435456 + arg.toNat := by
  have h : (traceWord op arg).toNat = op.toNat <<< 28 ||| arg.toNat := BitVec.toNat_append op arg
  rw [h, ← Nat.shiftLeft_add_eq_or_of_lt arg.isLt, Nat.shiftLeft_eq]

@[simp] theorem opOf_traceWord (op : BitVec 4) (arg : BitVec 28) : opOf (traceWord op arg) = op := by
  apply BitVec.eq_of_toNat_eq
  have := arg.isLt
  rw [opOf_toNat, traceWord_toNat]
  omega

@[simp] theorem argOf_traceWord (op : BitVec 4) (arg : BitVec 28) : argOf (traceWord op arg) = arg := by
  apply BitVec.eq_of_toNat_eq
  have := arg.isLt
  rw [argOf_toNat, traceWord_toNat]
  omega

/-- A trace word is its `op` and its `arg`. -/
theorem traceWord_of_fields (w : TraceWord) : traceWord (opOf w) (argOf w) = w := by
  apply BitVec.eq_of_toNat_eq
  rw [traceWord_toNat, opOf_toNat, argOf_toNat]
  omega

/-! ### Operand fields -/

theorem high20_eq_zero (a : BitVec 28) : a.extractLsb' 8 20 = 0#20 ↔ a.toNat < 256 := by
  have := a.isLt
  rw [← BitVec.toNat_inj]
  simp only [BitVec.extractLsb'_toNat, Nat.shiftRight_eq_div_pow, BitVec.toNat_ofNat]
  omega

theorem high27_eq_zero (a : BitVec 28) : a.extractLsb' 1 27 = 0#27 ↔ a.toNat < 2 := by
  have := a.isLt
  rw [← BitVec.toNat_inj]
  simp only [BitVec.extractLsb'_toNat, Nat.shiftRight_eq_div_pow, BitVec.toNat_ofNat]
  omega

theorem low8_toNat (a : BitVec 28) : (a.extractLsb' 0 8).toNat = a.toNat % 256 := by
  simp [BitVec.extractLsb'_toNat]

theorem bit0_toNat (a : BitVec 28) : (a.getLsbD 0).toNat = a.toNat % 2 := by
  rw [BitVec.getLsbD, Nat.testBit_zero]
  rcases Nat.mod_two_eq_zero_or_one a.toNat with h | h <;> simp [h]

theorem byteArg_toNat (v : Byte) : (v.setWidth 28).toNat = v.toNat := by
  have := v.isLt
  simp only [BitVec.toNat_setWidth]
  omega

theorem bitArg_toNat (b : Bool) : ((BitVec.ofBool b).setWidth 28).toNat = b.toNat := by
  cases b <;> rfl

/-- Eight samples shifted in from an empty register and read off again are the samples. -/
theorem byteBits_of_samples (l : List Bool) (h : l.length = 8) : byteBits (l.foldl shiftIn 0#8) = l := by
  match l, h with
  | [a, b, c, d, e, f, g, i], _ => revert a b c d e f g i; decide

theorem shiftIn_toNat (sr : Byte) (b : Bool) : (shiftIn sr b).toNat = sr.toNat % 128 * 2 + b.toNat := by
  have h : (shiftIn sr b).toNat = (sr.extractLsb' 0 7).toNat <<< 1 ||| (BitVec.ofBool b).toNat :=
    BitVec.toNat_append (sr.extractLsb' 0 7) (BitVec.ofBool b)
  rw [h, ← Nat.shiftLeft_add_eq_or_of_lt (BitVec.ofBool b).isLt, Nat.shiftLeft_eq, BitVec.toNat_ofBool]
  simp [BitVec.extractLsb'_toNat]

end Sys2Proof
end

