-- ==== Sys2Proof/Laws/State.lean ====
section
/-! SUPPORT. What each effect does to each field of State: one lemma per field per effect, all simp lemmas, so that no
proof unfolds a record update. -/

namespace Sys2Proof.Machine

/-! ### `fifoPush` -/

@[simp] theorem fifoPush_cfg (v : Byte) (s : State) : (fifoPush v s).cfg = s.cfg := rfl
@[simp] theorem fifoPush_pend (v : Byte) (s : State) : (fifoPush v s).pend = s.pend := rfl
@[simp] theorem fifoPush_actv (v : Byte) (s : State) : (fifoPush v s).actv = s.actv := rfl
@[simp] theorem fifoPush_fp (v : Byte) (s : State) : (fifoPush v s).fp = s.fp := rfl
@[simp] theorem fifoPush_syncflag (v : Byte) (s : State) : (fifoPush v s).syncflag = s.syncflag := rfl
@[simp] theorem fifoPush_synccnt (v : Byte) (s : State) : (fifoPush v s).synccnt = s.synccnt := rfl
@[simp] theorem fifoPush_lastsync (v : Byte) (s : State) : (fifoPush v s).lastsync = s.lastsync := rfl
@[simp] theorem fifoPush_lastbyte (v : Byte) (s : State) : (fifoPush v s).lastbyte = s.lastbyte := rfl
@[simp] theorem fifoPush_status (v : Byte) (s : State) : (fifoPush v s).status = s.status := rfl
@[simp] theorem fifoPush_phase (v : Byte) (s : State) : (fifoPush v s).phase = s.phase := rfl
@[simp] theorem fifoPush_chidx (v : Byte) (s : State) : (fifoPush v s).chidx = s.chidx := rfl
@[simp] theorem fifoPush_now (v : Byte) (s : State) : (fifoPush v s).now = s.now := rfl
@[simp] theorem fifoPush_fifo (v : Byte) (s : State) : (fifoPush v s).fifo = s.fifoPushed v := rfl
@[simp] theorem fifoPush_sr (v : Byte) (s : State) : (fifoPush v s).sr = s.sr := rfl
@[simp] theorem fifoPush_bitcnt (v : Byte) (s : State) : (fifoPush v s).bitcnt = s.bitcnt := rfl
@[simp] theorem fifoPush_sel (v : Byte) (s : State) : (fifoPush v s).sel = s.sel := rfl
@[simp] theorem fifoPush_synclvl (v : Byte) (s : State) : (fifoPush v s).synclvl = s.synclvl := rfl
@[simp] theorem fifoPush_cmp (v : Byte) (s : State) : (fifoPush v s).cmp = s.cmp := rfl
@[simp] theorem fifoPush_live (v : Byte) (s : State) : (fifoPush v s).live = s.live := rfl
@[simp] theorem fifoPush_cnt (v : Byte) (s : State) : (fifoPush v s).cnt = s.cnt := rfl
@[simp] theorem fifoPush_ovr (v : Byte) (s : State) : (fifoPush v s).ovr = s.ovrPushed := rfl
@[simp] theorem fifoPush_trace (v : Byte) (s : State) : (fifoPush v s).trace = s.trace := rfl
@[simp] theorem fifoPush_draws (v : Byte) (s : State) : (fifoPush v s).draws = s.draws := rfl

/-! ### `serialBit` -/

@[simp] theorem serialBit_cfg (b : Bool) (s : State) : (serialBit b s).cfg = s.cfg := rfl
@[simp] theorem serialBit_pend (b : Bool) (s : State) : (serialBit b s).pend = s.pend := rfl
@[simp] theorem serialBit_actv (b : Bool) (s : State) : (serialBit b s).actv = s.actv := rfl
@[simp] theorem serialBit_fp (b : Bool) (s : State) : (serialBit b s).fp = s.fp := rfl
@[simp] theorem serialBit_syncflag (b : Bool) (s : State) : (serialBit b s).syncflag = s.syncflag := rfl
@[simp] theorem serialBit_synccnt (b : Bool) (s : State) : (serialBit b s).synccnt = s.synccnt := rfl
@[simp] theorem serialBit_lastsync (b : Bool) (s : State) : (serialBit b s).lastsync = s.lastsync := rfl
@[simp] theorem serialBit_lastbyte (b : Bool) (s : State) : (serialBit b s).lastbyte = s.lastbyte := rfl
@[simp] theorem serialBit_status (b : Bool) (s : State) : (serialBit b s).status = s.status := rfl
@[simp] theorem serialBit_phase (b : Bool) (s : State) : (serialBit b s).phase = s.phase := rfl
@[simp] theorem serialBit_chidx (b : Bool) (s : State) : (serialBit b s).chidx = s.chidx := rfl
@[simp] theorem serialBit_now (b : Bool) (s : State) : (serialBit b s).now = s.now := rfl
@[simp] theorem serialBit_fifo (b : Bool) (s : State) :
    (serialBit b s).fifo = if s.byteEnds then s.fifoPushed (shiftIn s.sr b) else s.fifo := rfl
@[simp] theorem serialBit_sr (b : Bool) (s : State) :
    (serialBit b s).sr = if s.sel then shiftIn s.sr b else s.sr := rfl
@[simp] theorem serialBit_bitcnt (b : Bool) (s : State) :
    (serialBit b s).bitcnt = if s.sel then (if s.bitcnt = 7 then 0 else s.bitcnt + 1) else s.bitcnt := rfl
@[simp] theorem serialBit_sel (b : Bool) (s : State) : (serialBit b s).sel = s.sel := rfl
@[simp] theorem serialBit_synclvl (b : Bool) (s : State) : (serialBit b s).synclvl = s.synclvl := rfl
@[simp] theorem serialBit_cmp (b : Bool) (s : State) : (serialBit b s).cmp = s.cmp := rfl
@[simp] theorem serialBit_live (b : Bool) (s : State) : (serialBit b s).live = s.live := rfl
@[simp] theorem serialBit_cnt (b : Bool) (s : State) : (serialBit b s).cnt = s.cnt := rfl
@[simp] theorem serialBit_ovr (b : Bool) (s : State) :
    (serialBit b s).ovr = if s.byteEnds then s.ovrPushed else s.ovr := rfl
@[simp] theorem serialBit_trace (b : Bool) (s : State) : (serialBit b s).trace = s.trace := rfl
@[simp] theorem serialBit_draws (b : Bool) (s : State) : (serialBit b s).draws = s.draws := rfl

/-! ### `chipSelect` -/

@[simp] theorem chipSelect_cfg (l : Bool) (s : State) : (chipSelect l s).cfg = s.cfg := rfl
@[simp] theorem chipSelect_pend (l : Bool) (s : State) : (chipSelect l s).pend = s.pend := rfl
@[simp] theorem chipSelect_actv (l : Bool) (s : State) : (chipSelect l s).actv = s.actv := rfl
@[simp] theorem chipSelect_fp (l : Bool) (s : State) : (chipSelect l s).fp = s.fp := rfl
@[simp] theorem chipSelect_syncflag (l : Bool) (s : State) : (chipSelect l s).syncflag = s.syncflag := rfl
@[simp] theorem chipSelect_synccnt (l : Bool) (s : State) : (chipSelect l s).synccnt = s.synccnt := rfl
@[simp] theorem chipSelect_lastsync (l : Bool) (s : State) : (chipSelect l s).lastsync = s.lastsync := rfl
@[simp] theorem chipSelect_lastbyte (l : Bool) (s : State) : (chipSelect l s).lastbyte = s.lastbyte := rfl
@[simp] theorem chipSelect_status (l : Bool) (s : State) : (chipSelect l s).status = s.status := rfl
@[simp] theorem chipSelect_phase (l : Bool) (s : State) : (chipSelect l s).phase = s.phase := rfl
@[simp] theorem chipSelect_chidx (l : Bool) (s : State) : (chipSelect l s).chidx = s.chidx := rfl
@[simp] theorem chipSelect_now (l : Bool) (s : State) : (chipSelect l s).now = s.now := rfl
@[simp] theorem chipSelect_fifo (l : Bool) (s : State) : (chipSelect l s).fifo = s.fifo := rfl
@[simp] theorem chipSelect_sr (l : Bool) (s : State) : (chipSelect l s).sr = s.sr := rfl
@[simp] theorem chipSelect_bitcnt (l : Bool) (s : State) : (chipSelect l s).bitcnt = 0 := rfl
@[simp] theorem chipSelect_sel (l : Bool) (s : State) : (chipSelect l s).sel = l := rfl
@[simp] theorem chipSelect_synclvl (l : Bool) (s : State) : (chipSelect l s).synclvl = s.synclvl := rfl
@[simp] theorem chipSelect_cmp (l : Bool) (s : State) : (chipSelect l s).cmp = s.cmp := rfl
@[simp] theorem chipSelect_live (l : Bool) (s : State) : (chipSelect l s).live = s.live := rfl
@[simp] theorem chipSelect_cnt (l : Bool) (s : State) : (chipSelect l s).cnt = s.cnt := rfl
@[simp] theorem chipSelect_ovr (l : Bool) (s : State) : (chipSelect l s).ovr = s.ovr := rfl
@[simp] theorem chipSelect_trace (l : Bool) (s : State) : (chipSelect l s).trace = s.trace := rfl
@[simp] theorem chipSelect_draws (l : Bool) (s : State) : (chipSelect l s).draws = s.draws := rfl

/-! ### `edgeHandler` -/

@[simp] theorem edgeHandler_cfg (s : State) : (edgeHandler s).cfg = s.cfg := rfl
@[simp] theorem edgeHandler_pend (s : State) : (edgeHandler s).pend = s.pend := rfl
@[simp] theorem edgeHandler_actv (s : State) : (edgeHandler s).actv = s.actv := rfl
@[simp] theorem edgeHandler_fp (s : State) : (edgeHandler s).fp = s.fp := rfl
@[simp] theorem edgeHandler_syncflag (s : State) : (edgeHandler s).syncflag = true := rfl
@[simp] theorem edgeHandler_synccnt (s : State) :
    (edgeHandler s).synccnt = if s.heartbeatDue then 0 else s.synccnt + 1 := rfl
@[simp] theorem edgeHandler_lastsync (s : State) : (edgeHandler s).lastsync = s.lastsync := rfl
@[simp] theorem edgeHandler_lastbyte (s : State) : (edgeHandler s).lastbyte = s.lastbyte := rfl
@[simp] theorem edgeHandler_status (s : State) :
    (edgeHandler s).status = if s.heartbeatDue then !s.status else s.status := rfl
@[simp] theorem edgeHandler_phase (s : State) : (edgeHandler s).phase = s.phase := rfl
@[simp] theorem edgeHandler_chidx (s : State) : (edgeHandler s).chidx = s.chidx := rfl
@[simp] theorem edgeHandler_now (s : State) : (edgeHandler s).now = s.now := rfl
@[simp] theorem edgeHandler_fifo (s : State) : (edgeHandler s).fifo = s.fifo := rfl
@[simp] theorem edgeHandler_sr (s : State) : (edgeHandler s).sr = s.sr := rfl
@[simp] theorem edgeHandler_bitcnt (s : State) : (edgeHandler s).bitcnt = s.bitcnt := rfl
@[simp] theorem edgeHandler_sel (s : State) : (edgeHandler s).sel = s.sel := rfl
@[simp] theorem edgeHandler_synclvl (s : State) : (edgeHandler s).synclvl = s.synclvl := rfl
@[simp] theorem edgeHandler_cmp (s : State) : (edgeHandler s).cmp = s.cmp := rfl
@[simp] theorem edgeHandler_live (s : State) : (edgeHandler s).live = s.live := rfl
@[simp] theorem edgeHandler_cnt (s : State) : (edgeHandler s).cnt = s.cnt := rfl
@[simp] theorem edgeHandler_ovr (s : State) : (edgeHandler s).ovr = s.ovr := rfl
@[simp] theorem edgeHandler_trace (s : State) : (edgeHandler s).trace = s.trace := rfl
@[simp] theorem edgeHandler_draws (s : State) : (edgeHandler s).draws = s.draws := rfl

/-! ### `syncLevel` -/

@[simp] theorem syncLevel_cfg (l : Bool) (s : State) :
    (syncLevel l s).cfg = s.cfg := by unfold syncLevel; cases s.risingEdge l <;> simp
@[simp] theorem syncLevel_pend (l : Bool) (s : State) :
    (syncLevel l s).pend = s.pend := by unfold syncLevel; cases s.risingEdge l <;> simp
@[simp] theorem syncLevel_actv (l : Bool) (s : State) :
    (syncLevel l s).actv = s.actv := by unfold syncLevel; cases s.risingEdge l <;> simp
@[simp] theorem syncLevel_fp (l : Bool) (s : State) :
    (syncLevel l s).fp = s.fp := by unfold syncLevel; cases s.risingEdge l <;> simp
@[simp] theorem syncLevel_syncflag (l : Bool) (s : State) :
    (syncLevel l s).syncflag = (s.syncflag || s.risingEdge l) := by unfold syncLevel; cases s.risingEdge l <;> simp
@[simp] theorem syncLevel_synccnt (l : Bool) (s : State) :
    (syncLevel l s).synccnt = if s.risingEdge l then (if s.heartbeatDue then 0 else s.synccnt + 1) else s.synccnt := by unfold syncLevel; cases s.risingEdge l <;> simp
@[simp] theorem syncLevel_lastsync (l : Bool) (s : State) :
    (syncLevel l s).lastsync = s.lastsync := by unfold syncLevel; cases s.risingEdge l <;> simp
@[simp] theorem syncLevel_lastbyte (l : Bool) (s : State) :
    (syncLevel l s).lastbyte = s.lastbyte := by unfold syncLevel; cases s.risingEdge l <;> simp
@[simp] theorem syncLevel_status (l : Bool) (s : State) :
    (syncLevel l s).status = if s.risingEdge l && s.heartbeatDue then !s.status else s.status := by unfold syncLevel; cases s.risingEdge l <;> simp
@[simp] theorem syncLevel_phase (l : Bool) (s : State) :
    (syncLevel l s).phase = s.phase := by unfold syncLevel; cases s.risingEdge l <;> simp
@[simp] theorem syncLevel_chidx (l : Bool) (s : State) :
    (syncLevel l s).chidx = s.chidx := by unfold syncLevel; cases s.risingEdge l <;> simp
@[simp] theorem syncLevel_now (l : Bool) (s : State) :
    (syncLevel l s).now = s.now := by unfold syncLevel; cases s.risingEdge l <;> simp
@[simp] theorem syncLevel_fifo (l : Bool) (s : State) :
    (syncLevel l s).fifo = s.fifo := by unfold syncLevel; cases s.risingEdge l <;> simp
@[simp] theorem syncLevel_sr (l : Bool) (s : State) :
    (syncLevel l s).sr = s.sr := by unfold syncLevel; cases s.risingEdge l <;> simp
@[simp] theorem syncLevel_bitcnt (l : Bool) (s : State) :
    (syncLevel l s).bitcnt = s.bitcnt := by unfold syncLevel; cases s.risingEdge l <;> simp
@[simp] theorem syncLevel_sel (l : Bool) (s : State) :
    (syncLevel l s).sel = s.sel := by unfold syncLevel; cases s.risingEdge l <;> simp
@[simp] theorem syncLevel_synclvl (l : Bool) (s : State) :
    (syncLevel l s).synclvl = l := by unfold syncLevel; cases s.risingEdge l <;> simp
@[simp] theorem syncLevel_cmp (l : Bool) (s : State) :
    (syncLevel l s).cmp = s.cmp := by unfold syncLevel; cases s.risingEdge l <;> simp
@[simp] theorem syncLevel_live (l : Bool) (s : State) :
    (syncLevel l s).live = s.live := by unfold syncLevel; cases s.risingEdge l <;> simp
@[simp] theorem syncLevel_cnt (l : Bool) (s : State) :
    (syncLevel l s).cnt = s.cnt := by unfold syncLevel; cases s.risingEdge l <;> simp
@[simp] theorem syncLevel_ovr (l : Bool) (s : State) :
    (syncLevel l s).ovr = s.ovr := by unfold syncLevel; cases s.risingEdge l <;> simp
@[simp] theorem syncLevel_trace (l : Bool) (s : State) :
    (syncLevel l s).trace = s.trace := by unfold syncLevel; cases s.risingEdge l <;> simp
@[simp] theorem syncLevel_draws (l : Bool) (s : State) :
    (syncLevel l s).draws = s.draws := by unfold syncLevel; cases s.risingEdge l <;> simp

/-! ### `drainByte` -/

@[simp] theorem drainByte_cfg (s : State) : (drainByte s).cfg = s.cfg := by unfold drainByte; split <;> rfl
@[simp] theorem drainByte_actv (s : State) : (drainByte s).actv = s.actv := by unfold drainByte; split <;> rfl
@[simp] theorem drainByte_fp (s : State) :
    (drainByte s).fp = if s.fifo = [] then s.fp else nextPosition s.fp := by unfold drainByte; cases s.fifo <;> simp
@[simp] theorem drainByte_syncflag (s : State) :
    (drainByte s).syncflag = s.syncflag := by unfold drainByte; split <;> rfl
@[simp] theorem drainByte_synccnt (s : State) :
    (drainByte s).synccnt = s.synccnt := by unfold drainByte; split <;> rfl
@[simp] theorem drainByte_lastsync (s : State) :
    (drainByte s).lastsync = s.lastsync := by unfold drainByte; split <;> rfl
@[simp] theorem drainByte_lastbyte (s : State) :
    (drainByte s).lastbyte = if s.fifo = [] then s.lastbyte else s.now := by unfold drainByte; cases s.fifo <;> simp
@[simp] theorem drainByte_status (s : State) : (drainByte s).status = s.status := by unfold drainByte; split <;> rfl
@[simp] theorem drainByte_phase (s : State) : (drainByte s).phase = s.phase := by unfold drainByte; split <;> rfl
@[simp] theorem drainByte_chidx (s : State) : (drainByte s).chidx = s.chidx := by unfold drainByte; split <;> rfl
@[simp] theorem drainByte_now (s : State) : (drainByte s).now = s.now := by unfold drainByte; split <;> rfl
@[simp] theorem drainByte_fifo (s : State) :
    (drainByte s).fifo = s.fifo.tail := by unfold drainByte; cases h : s.fifo <;> simp [h]
@[simp] theorem drainByte_sr (s : State) : (drainByte s).sr = s.sr := by unfold drainByte; split <;> rfl
@[simp] theorem drainByte_bitcnt (s : State) : (drainByte s).bitcnt = s.bitcnt := by unfold drainByte; split <;> rfl
@[simp] theorem drainByte_sel (s : State) : (drainByte s).sel = s.sel := by unfold drainByte; split <;> rfl
@[simp] theorem drainByte_synclvl (s : State) :
    (drainByte s).synclvl = s.synclvl := by unfold drainByte; split <;> rfl
@[simp] theorem drainByte_cmp (s : State) : (drainByte s).cmp = s.cmp := by unfold drainByte; split <;> rfl
@[simp] theorem drainByte_live (s : State) : (drainByte s).live = s.live := by unfold drainByte; split <;> rfl
@[simp] theorem drainByte_cnt (s : State) : (drainByte s).cnt = s.cnt := by unfold drainByte; split <;> rfl
@[simp] theorem drainByte_ovr (s : State) : (drainByte s).ovr = s.ovr := by unfold drainByte; split <;> rfl
@[simp] theorem drainByte_trace (s : State) : (drainByte s).trace = s.trace := by unfold drainByte; split <;> rfl
@[simp] theorem drainByte_draws (s : State) : (drainByte s).draws = s.draws := by unfold drainByte; split <;> rfl

/-! ### `enterPhase` -/

@[simp] theorem enterPhase_cfg (p : Phase) (s : State) : (enterPhase p s).cfg = s.cfg := rfl
@[simp] theorem enterPhase_pend (p : Phase) (s : State) : (enterPhase p s).pend = s.pend := rfl
@[simp] theorem enterPhase_actv (p : Phase) (s : State) : (enterPhase p s).actv = s.actv := rfl
@[simp] theorem enterPhase_fp (p : Phase) (s : State) : (enterPhase p s).fp = s.fp := rfl
@[simp] theorem enterPhase_syncflag (p : Phase) (s : State) : (enterPhase p s).syncflag = s.syncflag := rfl
@[simp] theorem enterPhase_synccnt (p : Phase) (s : State) : (enterPhase p s).synccnt = s.synccnt := rfl
@[simp] theorem enterPhase_lastsync (p : Phase) (s : State) : (enterPhase p s).lastsync = s.lastsync := rfl
@[simp] theorem enterPhase_lastbyte (p : Phase) (s : State) : (enterPhase p s).lastbyte = s.lastbyte := rfl
@[simp] theorem enterPhase_status (p : Phase) (s : State) : (enterPhase p s).status = s.status := rfl
@[simp] theorem enterPhase_phase (p : Phase) (s : State) : (enterPhase p s).phase = p := rfl
@[simp] theorem enterPhase_chidx (p : Phase) (s : State) : (enterPhase p s).chidx = s.chidx := rfl
@[simp] theorem enterPhase_now (p : Phase) (s : State) : (enterPhase p s).now = s.now := rfl
@[simp] theorem enterPhase_fifo (p : Phase) (s : State) : (enterPhase p s).fifo = s.fifo := rfl
@[simp] theorem enterPhase_sr (p : Phase) (s : State) : (enterPhase p s).sr = s.sr := rfl
@[simp] theorem enterPhase_bitcnt (p : Phase) (s : State) : (enterPhase p s).bitcnt = s.bitcnt := rfl
@[simp] theorem enterPhase_sel (p : Phase) (s : State) : (enterPhase p s).sel = s.sel := rfl
@[simp] theorem enterPhase_synclvl (p : Phase) (s : State) : (enterPhase p s).synclvl = s.synclvl := rfl
@[simp] theorem enterPhase_cmp (p : Phase) (s : State) : (enterPhase p s).cmp = s.cmp := rfl
@[simp] theorem enterPhase_live (p : Phase) (s : State) : (enterPhase p s).live = s.live := rfl
@[simp] theorem enterPhase_cnt (p : Phase) (s : State) : (enterPhase p s).cnt = s.cnt := rfl
@[simp] theorem enterPhase_ovr (p : Phase) (s : State) : (enterPhase p s).ovr = s.ovr := rfl
@[simp] theorem enterPhase_trace (p : Phase) (s : State) : (enterPhase p s).trace = s.trace := rfl
@[simp] theorem enterPhase_draws (p : Phase) (s : State) : (enterPhase p s).draws = s.draws := rfl

/-! ### `takeSnapshot` -/

@[simp] theorem takeSnapshot_cfg (s : State) : (takeSnapshot s).cfg = s.cfg := rfl
@[simp] theorem takeSnapshot_pend (s : State) : (takeSnapshot s).pend = s.pend := rfl
@[simp] theorem takeSnapshot_actv (s : State) : (takeSnapshot s).actv = s.pend := rfl
@[simp] theorem takeSnapshot_fp (s : State) : (takeSnapshot s).fp = s.fp := rfl
@[simp] theorem takeSnapshot_syncflag (s : State) : (takeSnapshot s).syncflag = false := rfl
@[simp] theorem takeSnapshot_synccnt (s : State) : (takeSnapshot s).synccnt = s.synccnt := rfl
@[simp] theorem takeSnapshot_lastsync (s : State) : (takeSnapshot s).lastsync = s.now := rfl
@[simp] theorem takeSnapshot_lastbyte (s : State) : (takeSnapshot s).lastbyte = s.lastbyte := rfl
@[simp] theorem takeSnapshot_status (s : State) : (takeSnapshot s).status = s.status := rfl
@[simp] theorem takeSnapshot_phase (s : State) : (takeSnapshot s).phase = .bapply := rfl
@[simp] theorem takeSnapshot_chidx (s : State) : (takeSnapshot s).chidx = 0 := rfl
@[simp] theorem takeSnapshot_now (s : State) : (takeSnapshot s).now = s.now := rfl
@[simp] theorem takeSnapshot_fifo (s : State) : (takeSnapshot s).fifo = s.fifo := rfl
@[simp] theorem takeSnapshot_sr (s : State) : (takeSnapshot s).sr = s.sr := rfl
@[simp] theorem takeSnapshot_bitcnt (s : State) : (takeSnapshot s).bitcnt = s.bitcnt := rfl
@[simp] theorem takeSnapshot_sel (s : State) : (takeSnapshot s).sel = s.sel := rfl
@[simp] theorem takeSnapshot_synclvl (s : State) : (takeSnapshot s).synclvl = s.synclvl := rfl
@[simp] theorem takeSnapshot_cmp (s : State) : (takeSnapshot s).cmp = s.cmp := rfl
@[simp] theorem takeSnapshot_live (s : State) : (takeSnapshot s).live = s.live := rfl
@[simp] theorem takeSnapshot_cnt (s : State) : (takeSnapshot s).cnt = s.cnt := rfl
@[simp] theorem takeSnapshot_ovr (s : State) : (takeSnapshot s).ovr = s.ovr := rfl
@[simp] theorem takeSnapshot_trace (s : State) : (takeSnapshot s).trace = s.trace := rfl
@[simp] theorem takeSnapshot_draws (s : State) : (takeSnapshot s).draws = s.draws := rfl

/-! ### `setPulse` -/

@[simp] theorem setPulse_cfg (i : Chan) (us : Nat) (s : State) : (setPulse i us s).cfg = s.cfg := rfl
@[simp] theorem setPulse_pend (i : Chan) (us : Nat) (s : State) : (setPulse i us s).pend = s.pend := rfl
@[simp] theorem setPulse_actv (i : Chan) (us : Nat) (s : State) : (setPulse i us s).actv = s.actv := rfl
@[simp] theorem setPulse_fp (i : Chan) (us : Nat) (s : State) : (setPulse i us s).fp = s.fp := rfl
@[simp] theorem setPulse_syncflag (i : Chan) (us : Nat) (s : State) : (setPulse i us s).syncflag = s.syncflag := rfl
@[simp] theorem setPulse_synccnt (i : Chan) (us : Nat) (s : State) : (setPulse i us s).synccnt = s.synccnt := rfl
@[simp] theorem setPulse_lastsync (i : Chan) (us : Nat) (s : State) : (setPulse i us s).lastsync = s.lastsync := rfl
@[simp] theorem setPulse_lastbyte (i : Chan) (us : Nat) (s : State) : (setPulse i us s).lastbyte = s.lastbyte := rfl
@[simp] theorem setPulse_status (i : Chan) (us : Nat) (s : State) : (setPulse i us s).status = s.status := rfl
@[simp] theorem setPulse_phase (i : Chan) (us : Nat) (s : State) : (setPulse i us s).phase = s.phase := rfl
@[simp] theorem setPulse_chidx (i : Chan) (us : Nat) (s : State) : (setPulse i us s).chidx = s.chidx := rfl
@[simp] theorem setPulse_now (i : Chan) (us : Nat) (s : State) : (setPulse i us s).now = s.now := rfl
@[simp] theorem setPulse_fifo (i : Chan) (us : Nat) (s : State) : (setPulse i us s).fifo = s.fifo := rfl
@[simp] theorem setPulse_sr (i : Chan) (us : Nat) (s : State) : (setPulse i us s).sr = s.sr := rfl
@[simp] theorem setPulse_bitcnt (i : Chan) (us : Nat) (s : State) : (setPulse i us s).bitcnt = s.bitcnt := rfl
@[simp] theorem setPulse_sel (i : Chan) (us : Nat) (s : State) : (setPulse i us s).sel = s.sel := rfl
@[simp] theorem setPulse_synclvl (i : Chan) (us : Nat) (s : State) : (setPulse i us s).synclvl = s.synclvl := rfl
@[simp] theorem setPulse_cmp (i : Chan) (us : Nat) (s : State) :
    (setPulse i us s).cmp = s.cmp.set i (clampPulse us) := rfl
@[simp] theorem setPulse_live (i : Chan) (us : Nat) (s : State) : (setPulse i us s).live = s.live := rfl
@[simp] theorem setPulse_cnt (i : Chan) (us : Nat) (s : State) : (setPulse i us s).cnt = s.cnt := rfl
@[simp] theorem setPulse_ovr (i : Chan) (us : Nat) (s : State) : (setPulse i us s).ovr = s.ovr := rfl
@[simp] theorem setPulse_trace (i : Chan) (us : Nat) (s : State) : (setPulse i us s).trace = s.trace := rfl
@[simp] theorem setPulse_draws (i : Chan) (us : Nat) (s : State) : (setPulse i us s).draws = s.draws := rfl

/-! ### `nextChannel` -/

@[simp] theorem nextChannel_cfg (p : Phase) (s : State) : (nextChannel p s).cfg = s.cfg := rfl
@[simp] theorem nextChannel_pend (p : Phase) (s : State) : (nextChannel p s).pend = s.pend := rfl
@[simp] theorem nextChannel_actv (p : Phase) (s : State) : (nextChannel p s).actv = s.actv := rfl
@[simp] theorem nextChannel_fp (p : Phase) (s : State) : (nextChannel p s).fp = s.fp := rfl
@[simp] theorem nextChannel_syncflag (p : Phase) (s : State) : (nextChannel p s).syncflag = s.syncflag := rfl
@[simp] theorem nextChannel_synccnt (p : Phase) (s : State) : (nextChannel p s).synccnt = s.synccnt := rfl
@[simp] theorem nextChannel_lastsync (p : Phase) (s : State) : (nextChannel p s).lastsync = s.lastsync := rfl
@[simp] theorem nextChannel_lastbyte (p : Phase) (s : State) : (nextChannel p s).lastbyte = s.lastbyte := rfl
@[simp] theorem nextChannel_status (p : Phase) (s : State) : (nextChannel p s).status = s.status := rfl
@[simp] theorem nextChannel_phase (p : Phase) (s : State) :
    (nextChannel p s).phase = if s.chidx = 8 then p else s.phase := rfl
@[simp] theorem nextChannel_chidx (p : Phase) (s : State) :
    (nextChannel p s).chidx = if s.chidx = 8 then 0 else s.chidx + 1 := rfl
@[simp] theorem nextChannel_now (p : Phase) (s : State) : (nextChannel p s).now = s.now := rfl
@[simp] theorem nextChannel_fifo (p : Phase) (s : State) : (nextChannel p s).fifo = s.fifo := rfl
@[simp] theorem nextChannel_sr (p : Phase) (s : State) : (nextChannel p s).sr = s.sr := rfl
@[simp] theorem nextChannel_bitcnt (p : Phase) (s : State) : (nextChannel p s).bitcnt = s.bitcnt := rfl
@[simp] theorem nextChannel_sel (p : Phase) (s : State) : (nextChannel p s).sel = s.sel := rfl
@[simp] theorem nextChannel_synclvl (p : Phase) (s : State) : (nextChannel p s).synclvl = s.synclvl := rfl
@[simp] theorem nextChannel_cmp (p : Phase) (s : State) : (nextChannel p s).cmp = s.cmp := rfl
@[simp] theorem nextChannel_live (p : Phase) (s : State) : (nextChannel p s).live = s.live := rfl
@[simp] theorem nextChannel_cnt (p : Phase) (s : State) : (nextChannel p s).cnt = s.cnt := rfl
@[simp] theorem nextChannel_ovr (p : Phase) (s : State) : (nextChannel p s).ovr = s.ovr := rfl
@[simp] theorem nextChannel_trace (p : Phase) (s : State) : (nextChannel p s).trace = s.trace := rfl
@[simp] theorem nextChannel_draws (p : Phase) (s : State) : (nextChannel p s).draws = s.draws := rfl

/-! ### `applyPulse` -/

@[simp] theorem applyPulse_cfg (us : Nat) (s : State) : (applyPulse us s).cfg = s.cfg := rfl
@[simp] theorem applyPulse_pend (us : Nat) (s : State) : (applyPulse us s).pend = s.pend := rfl
@[simp] theorem applyPulse_actv (us : Nat) (s : State) : (applyPulse us s).actv = s.actv := rfl
@[simp] theorem applyPulse_fp (us : Nat) (s : State) : (applyPulse us s).fp = s.fp := rfl
@[simp] theorem applyPulse_syncflag (us : Nat) (s : State) : (applyPulse us s).syncflag = s.syncflag := rfl
@[simp] theorem applyPulse_synccnt (us : Nat) (s : State) : (applyPulse us s).synccnt = s.synccnt := rfl
@[simp] theorem applyPulse_lastsync (us : Nat) (s : State) : (applyPulse us s).lastsync = s.lastsync := rfl
@[simp] theorem applyPulse_lastbyte (us : Nat) (s : State) : (applyPulse us s).lastbyte = s.lastbyte := rfl
@[simp] theorem applyPulse_status (us : Nat) (s : State) : (applyPulse us s).status = s.status := rfl
@[simp] theorem applyPulse_phase (us : Nat) (s : State) :
    (applyPulse us s).phase = if s.chidx = 8 then .bend else s.phase := rfl
@[simp] theorem applyPulse_chidx (us : Nat) (s : State) :
    (applyPulse us s).chidx = if s.chidx = 8 then 0 else s.chidx + 1 := rfl
@[simp] theorem applyPulse_now (us : Nat) (s : State) : (applyPulse us s).now = s.now := rfl
@[simp] theorem applyPulse_fifo (us : Nat) (s : State) : (applyPulse us s).fifo = s.fifo := rfl
@[simp] theorem applyPulse_sr (us : Nat) (s : State) : (applyPulse us s).sr = s.sr := rfl
@[simp] theorem applyPulse_bitcnt (us : Nat) (s : State) : (applyPulse us s).bitcnt = s.bitcnt := rfl
@[simp] theorem applyPulse_sel (us : Nat) (s : State) : (applyPulse us s).sel = s.sel := rfl
@[simp] theorem applyPulse_synclvl (us : Nat) (s : State) : (applyPulse us s).synclvl = s.synclvl := rfl
@[simp] theorem applyPulse_cmp (us : Nat) (s : State) :
    (applyPulse us s).cmp = s.cmp.set s.chidx (clampPulse us) := rfl
@[simp] theorem applyPulse_live (us : Nat) (s : State) : (applyPulse us s).live = s.live := rfl
@[simp] theorem applyPulse_cnt (us : Nat) (s : State) : (applyPulse us s).cnt = s.cnt := rfl
@[simp] theorem applyPulse_ovr (us : Nat) (s : State) : (applyPulse us s).ovr = s.ovr := rfl
@[simp] theorem applyPulse_trace (us : Nat) (s : State) : (applyPulse us s).trace = s.trace := rfl
@[simp] theorem applyPulse_draws (us : Nat) (s : State) : (applyPulse us s).draws = s.draws := rfl

/-! ### `endService` -/

@[simp] theorem endService_cfg (s : State) : (endService s).cfg = s.cfg := rfl
@[simp] theorem endService_pend (s : State) : (endService s).pend = s.pend := rfl
@[simp] theorem endService_actv (s : State) : (endService s).actv = s.actv := rfl
@[simp] theorem endService_fp (s : State) : (endService s).fp = 0 := rfl
@[simp] theorem endService_syncflag (s : State) : (endService s).syncflag = s.syncflag := rfl
@[simp] theorem endService_synccnt (s : State) : (endService s).synccnt = s.synccnt := rfl
@[simp] theorem endService_lastsync (s : State) : (endService s).lastsync = s.lastsync := rfl
@[simp] theorem endService_lastbyte (s : State) : (endService s).lastbyte = s.lastbyte := rfl
@[simp] theorem endService_status (s : State) : (endService s).status = s.status := rfl
@[simp] theorem endService_phase (s : State) : (endService s).phase = .c := rfl
@[simp] theorem endService_chidx (s : State) : (endService s).chidx = s.chidx := rfl
@[simp] theorem endService_now (s : State) : (endService s).now = s.now := rfl
@[simp] theorem endService_fifo (s : State) : (endService s).fifo = s.fifo := rfl
@[simp] theorem endService_sr (s : State) : (endService s).sr = s.sr := rfl
@[simp] theorem endService_bitcnt (s : State) : (endService s).bitcnt = s.bitcnt := rfl
@[simp] theorem endService_sel (s : State) : (endService s).sel = s.sel := rfl
@[simp] theorem endService_synclvl (s : State) : (endService s).synclvl = s.synclvl := rfl
@[simp] theorem endService_cmp (s : State) : (endService s).cmp = s.cmp := rfl
@[simp] theorem endService_live (s : State) : (endService s).live = s.live := rfl
@[simp] theorem endService_cnt (s : State) : (endService s).cnt = s.cnt := rfl
@[simp] theorem endService_ovr (s : State) : (endService s).ovr = s.ovr := rfl
@[simp] theorem endService_trace (s : State) : (endService s).trace = s.trace := rfl
@[simp] theorem endService_draws (s : State) : (endService s).draws = s.draws := rfl

/-! ### `watchdogCheck` -/

@[simp] theorem watchdogCheck_cfg (s : State) : (watchdogCheck s).cfg = s.cfg := rfl
@[simp] theorem watchdogCheck_pend (s : State) : (watchdogCheck s).pend = s.pend := rfl
@[simp] theorem watchdogCheck_actv (s : State) : (watchdogCheck s).actv = s.actv := rfl
@[simp] theorem watchdogCheck_fp (s : State) : (watchdogCheck s).fp = s.fp := rfl
@[simp] theorem watchdogCheck_syncflag (s : State) : (watchdogCheck s).syncflag = s.syncflag := rfl
@[simp] theorem watchdogCheck_synccnt (s : State) : (watchdogCheck s).synccnt = s.synccnt := rfl
@[simp] theorem watchdogCheck_lastsync (s : State) : (watchdogCheck s).lastsync = s.lastsync := rfl
@[simp] theorem watchdogCheck_lastbyte (s : State) : (watchdogCheck s).lastbyte = s.lastbyte := rfl
@[simp] theorem watchdogCheck_status (s : State) : (watchdogCheck s).status = s.status := rfl
@[simp] theorem watchdogCheck_phase (s : State) : (watchdogCheck s).phase = if s.stale then .capply else .a := rfl
@[simp] theorem watchdogCheck_chidx (s : State) : (watchdogCheck s).chidx = if s.stale then 0 else s.chidx := rfl
@[simp] theorem watchdogCheck_now (s : State) : (watchdogCheck s).now = s.now := rfl
@[simp] theorem watchdogCheck_fifo (s : State) : (watchdogCheck s).fifo = s.fifo := rfl
@[simp] theorem watchdogCheck_sr (s : State) : (watchdogCheck s).sr = s.sr := rfl
@[simp] theorem watchdogCheck_bitcnt (s : State) : (watchdogCheck s).bitcnt = s.bitcnt := rfl
@[simp] theorem watchdogCheck_sel (s : State) : (watchdogCheck s).sel = s.sel := rfl
@[simp] theorem watchdogCheck_synclvl (s : State) : (watchdogCheck s).synclvl = s.synclvl := rfl
@[simp] theorem watchdogCheck_cmp (s : State) : (watchdogCheck s).cmp = s.cmp := rfl
@[simp] theorem watchdogCheck_live (s : State) : (watchdogCheck s).live = s.live := rfl
@[simp] theorem watchdogCheck_cnt (s : State) : (watchdogCheck s).cnt = s.cnt := rfl
@[simp] theorem watchdogCheck_ovr (s : State) : (watchdogCheck s).ovr = s.ovr := rfl
@[simp] theorem watchdogCheck_trace (s : State) : (watchdogCheck s).trace = s.trace := rfl
@[simp] theorem watchdogCheck_draws (s : State) : (watchdogCheck s).draws = s.draws := rfl

/-! ### `forceIdle` -/

@[simp] theorem forceIdle_cfg (s : State) : (forceIdle s).cfg = s.cfg := rfl
@[simp] theorem forceIdle_pend (s : State) : (forceIdle s).pend = s.pend := rfl
@[simp] theorem forceIdle_actv (s : State) : (forceIdle s).actv = s.actv := rfl
@[simp] theorem forceIdle_fp (s : State) : (forceIdle s).fp = s.fp := rfl
@[simp] theorem forceIdle_syncflag (s : State) : (forceIdle s).syncflag = s.syncflag := rfl
@[simp] theorem forceIdle_synccnt (s : State) : (forceIdle s).synccnt = s.synccnt := rfl
@[simp] theorem forceIdle_lastsync (s : State) : (forceIdle s).lastsync = s.lastsync := rfl
@[simp] theorem forceIdle_lastbyte (s : State) : (forceIdle s).lastbyte = s.lastbyte := rfl
@[simp] theorem forceIdle_status (s : State) : (forceIdle s).status = s.status := rfl
@[simp] theorem forceIdle_phase (s : State) : (forceIdle s).phase = if s.chidx = 8 then .cind else s.phase := rfl
@[simp] theorem forceIdle_chidx (s : State) : (forceIdle s).chidx = if s.chidx = 8 then 0 else s.chidx + 1 := rfl
@[simp] theorem forceIdle_now (s : State) : (forceIdle s).now = s.now := rfl
@[simp] theorem forceIdle_fifo (s : State) : (forceIdle s).fifo = s.fifo := rfl
@[simp] theorem forceIdle_sr (s : State) : (forceIdle s).sr = s.sr := rfl
@[simp] theorem forceIdle_bitcnt (s : State) : (forceIdle s).bitcnt = s.bitcnt := rfl
@[simp] theorem forceIdle_sel (s : State) : (forceIdle s).sel = s.sel := rfl
@[simp] theorem forceIdle_synclvl (s : State) : (forceIdle s).synclvl = s.synclvl := rfl
@[simp] theorem forceIdle_cmp (s : State) : (forceIdle s).cmp = s.cmp.set s.chidx (clampPulse IDLE_US) := rfl
@[simp] theorem forceIdle_live (s : State) : (forceIdle s).live = s.live := rfl
@[simp] theorem forceIdle_cnt (s : State) : (forceIdle s).cnt = s.cnt := rfl
@[simp] theorem forceIdle_ovr (s : State) : (forceIdle s).ovr = s.ovr := rfl
@[simp] theorem forceIdle_trace (s : State) : (forceIdle s).trace = s.trace := rfl
@[simp] theorem forceIdle_draws (s : State) : (forceIdle s).draws = s.draws := rfl

/-! ### `driveFaultWave` -/

@[simp] theorem driveFaultWave_cfg (s : State) : (driveFaultWave s).cfg = s.cfg := rfl
@[simp] theorem driveFaultWave_pend (s : State) : (driveFaultWave s).pend = s.pend := rfl
@[simp] theorem driveFaultWave_actv (s : State) : (driveFaultWave s).actv = s.actv := rfl
@[simp] theorem driveFaultWave_fp (s : State) : (driveFaultWave s).fp = s.fp := rfl
@[simp] theorem driveFaultWave_syncflag (s : State) : (driveFaultWave s).syncflag = s.syncflag := rfl
@[simp] theorem driveFaultWave_synccnt (s : State) : (driveFaultWave s).synccnt = s.synccnt := rfl
@[simp] theorem driveFaultWave_lastsync (s : State) : (driveFaultWave s).lastsync = s.lastsync := rfl
@[simp] theorem driveFaultWave_lastbyte (s : State) : (driveFaultWave s).lastbyte = s.lastbyte := rfl
@[simp] theorem driveFaultWave_status (s : State) : (driveFaultWave s).status = faultWave s.cfg s.now := rfl
@[simp] theorem driveFaultWave_phase (s : State) : (driveFaultWave s).phase = .a := rfl
@[simp] theorem driveFaultWave_chidx (s : State) : (driveFaultWave s).chidx = s.chidx := rfl
@[simp] theorem driveFaultWave_now (s : State) : (driveFaultWave s).now = s.now := rfl
@[simp] theorem driveFaultWave_fifo (s : State) : (driveFaultWave s).fifo = s.fifo := rfl
@[simp] theorem driveFaultWave_sr (s : State) : (driveFaultWave s).sr = s.sr := rfl
@[simp] theorem driveFaultWave_bitcnt (s : State) : (driveFaultWave s).bitcnt = s.bitcnt := rfl
@[simp] theorem driveFaultWave_sel (s : State) : (driveFaultWave s).sel = s.sel := rfl
@[simp] theorem driveFaultWave_synclvl (s : State) : (driveFaultWave s).synclvl = s.synclvl := rfl
@[simp] theorem driveFaultWave_cmp (s : State) : (driveFaultWave s).cmp = s.cmp := rfl
@[simp] theorem driveFaultWave_live (s : State) : (driveFaultWave s).live = s.live := rfl
@[simp] theorem driveFaultWave_cnt (s : State) : (driveFaultWave s).cnt = s.cnt := rfl
@[simp] theorem driveFaultWave_ovr (s : State) : (driveFaultWave s).ovr = s.ovr := rfl
@[simp] theorem driveFaultWave_trace (s : State) : (driveFaultWave s).trace = s.trace := rfl
@[simp] theorem driveFaultWave_draws (s : State) : (driveFaultWave s).draws = s.draws := rfl

/-! ### `pwmAdvance` -/

@[simp] theorem pwmAdvance_cfg (d : Nat) (s : State) : (pwmAdvance d s).cfg = s.cfg := rfl
@[simp] theorem pwmAdvance_pend (d : Nat) (s : State) : (pwmAdvance d s).pend = s.pend := rfl
@[simp] theorem pwmAdvance_actv (d : Nat) (s : State) : (pwmAdvance d s).actv = s.actv := rfl
@[simp] theorem pwmAdvance_fp (d : Nat) (s : State) : (pwmAdvance d s).fp = s.fp := rfl
@[simp] theorem pwmAdvance_syncflag (d : Nat) (s : State) : (pwmAdvance d s).syncflag = s.syncflag := rfl
@[simp] theorem pwmAdvance_synccnt (d : Nat) (s : State) : (pwmAdvance d s).synccnt = s.synccnt := rfl
@[simp] theorem pwmAdvance_lastsync (d : Nat) (s : State) : (pwmAdvance d s).lastsync = s.lastsync := rfl
@[simp] theorem pwmAdvance_lastbyte (d : Nat) (s : State) : (pwmAdvance d s).lastbyte = s.lastbyte := rfl
@[simp] theorem pwmAdvance_status (d : Nat) (s : State) : (pwmAdvance d s).status = s.status := rfl
@[simp] theorem pwmAdvance_phase (d : Nat) (s : State) : (pwmAdvance d s).phase = s.phase := rfl
@[simp] theorem pwmAdvance_chidx (d : Nat) (s : State) : (pwmAdvance d s).chidx = s.chidx := rfl
@[simp] theorem pwmAdvance_now (d : Nat) (s : State) : (pwmAdvance d s).now = s.now := rfl
@[simp] theorem pwmAdvance_fifo (d : Nat) (s : State) : (pwmAdvance d s).fifo = s.fifo := rfl
@[simp] theorem pwmAdvance_sr (d : Nat) (s : State) : (pwmAdvance d s).sr = s.sr := rfl
@[simp] theorem pwmAdvance_bitcnt (d : Nat) (s : State) : (pwmAdvance d s).bitcnt = s.bitcnt := rfl
@[simp] theorem pwmAdvance_sel (d : Nat) (s : State) : (pwmAdvance d s).sel = s.sel := rfl
@[simp] theorem pwmAdvance_synclvl (d : Nat) (s : State) : (pwmAdvance d s).synclvl = s.synclvl := rfl
@[simp] theorem pwmAdvance_cmp (d : Nat) (s : State) : (pwmAdvance d s).cmp = s.cmp := rfl
@[simp] theorem pwmAdvance_live (d : Nat) (s : State) :
    (pwmAdvance d s).live = Vector.ofFn fun c : Chan => if s.cnt[c] + d ≥ s.cfg.pwmPeriodUs then s.cmp[c] else s.live[c] := rfl
@[simp] theorem pwmAdvance_cnt (d : Nat) (s : State) :
    (pwmAdvance d s).cnt = Vector.ofFn fun c : Chan => (s.cnt[c] + d) % s.cfg.pwmPeriodUs := rfl
@[simp] theorem pwmAdvance_ovr (d : Nat) (s : State) : (pwmAdvance d s).ovr = s.ovr := rfl
@[simp] theorem pwmAdvance_trace (d : Nat) (s : State) : (pwmAdvance d s).trace = s.trace := rfl
@[simp] theorem pwmAdvance_draws (d : Nat) (s : State) : (pwmAdvance d s).draws = s.draws := rfl

/-! ### `advance` -/

@[simp] theorem advance_cfg (d : Nat) (s : State) : (advance d s).cfg = s.cfg := rfl
@[simp] theorem advance_pend (d : Nat) (s : State) : (advance d s).pend = s.pend := rfl
@[simp] theorem advance_actv (d : Nat) (s : State) : (advance d s).actv = s.actv := rfl
@[simp] theorem advance_fp (d : Nat) (s : State) : (advance d s).fp = s.fp := rfl
@[simp] theorem advance_syncflag (d : Nat) (s : State) : (advance d s).syncflag = s.syncflag := rfl
@[simp] theorem advance_synccnt (d : Nat) (s : State) : (advance d s).synccnt = s.synccnt := rfl
@[simp] theorem advance_lastsync (d : Nat) (s : State) : (advance d s).lastsync = s.lastsync := rfl
@[simp] theorem advance_lastbyte (d : Nat) (s : State) : (advance d s).lastbyte = s.lastbyte := rfl
@[simp] theorem advance_status (d : Nat) (s : State) : (advance d s).status = s.status := rfl
@[simp] theorem advance_phase (d : Nat) (s : State) : (advance d s).phase = s.phase := rfl
@[simp] theorem advance_chidx (d : Nat) (s : State) : (advance d s).chidx = s.chidx := rfl
@[simp] theorem advance_now (d : Nat) (s : State) : (advance d s).now = s.now + d := rfl
@[simp] theorem advance_fifo (d : Nat) (s : State) : (advance d s).fifo = s.fifo := rfl
@[simp] theorem advance_sr (d : Nat) (s : State) : (advance d s).sr = s.sr := rfl
@[simp] theorem advance_bitcnt (d : Nat) (s : State) : (advance d s).bitcnt = s.bitcnt := rfl
@[simp] theorem advance_sel (d : Nat) (s : State) : (advance d s).sel = s.sel := rfl
@[simp] theorem advance_synclvl (d : Nat) (s : State) : (advance d s).synclvl = s.synclvl := rfl
@[simp] theorem advance_cmp (d : Nat) (s : State) : (advance d s).cmp = s.cmp := rfl
@[simp] theorem advance_live (d : Nat) (s : State) :
    (advance d s).live = Vector.ofFn fun c : Chan => if s.cnt[c] + d ≥ s.cfg.pwmPeriodUs then s.cmp[c] else s.live[c] := rfl
@[simp] theorem advance_cnt (d : Nat) (s : State) :
    (advance d s).cnt = Vector.ofFn fun c : Chan => (s.cnt[c] + d) % s.cfg.pwmPeriodUs := rfl
@[simp] theorem advance_ovr (d : Nat) (s : State) : (advance d s).ovr = s.ovr := rfl
@[simp] theorem advance_trace (d : Nat) (s : State) : (advance d s).trace = s.trace := rfl
@[simp] theorem advance_draws (d : Nat) (s : State) : (advance d s).draws = s.draws := rfl

/-! ### `powerCycle` -/

@[simp] theorem powerCycle_cfg (s : State) : (powerCycle s).cfg = s.cfg := rfl
@[simp] theorem powerCycle_pend (s : State) : (powerCycle s).pend = Vector.replicate 9 0#8 := rfl
@[simp] theorem powerCycle_actv (s : State) : (powerCycle s).actv = Vector.replicate 9 0#8 := rfl
@[simp] theorem powerCycle_fp (s : State) : (powerCycle s).fp = 0 := rfl
@[simp] theorem powerCycle_syncflag (s : State) : (powerCycle s).syncflag = false := rfl
@[simp] theorem powerCycle_synccnt (s : State) : (powerCycle s).synccnt = 0 := rfl
@[simp] theorem powerCycle_lastsync (s : State) : (powerCycle s).lastsync = Config.freeT0 s.cfg.nodeId s.draws := rfl
@[simp] theorem powerCycle_lastbyte (s : State) : (powerCycle s).lastbyte = Config.freeT0 s.cfg.nodeId s.draws := rfl
@[simp] theorem powerCycle_status (s : State) : (powerCycle s).status = false := rfl
@[simp] theorem powerCycle_phase (s : State) : (powerCycle s).phase = .a := rfl
@[simp] theorem powerCycle_chidx (s : State) : (powerCycle s).chidx = 0 := rfl
@[simp] theorem powerCycle_now (s : State) : (powerCycle s).now = Config.freeT0 s.cfg.nodeId s.draws := rfl
@[simp] theorem powerCycle_fifo (s : State) : (powerCycle s).fifo = [] := rfl
@[simp] theorem powerCycle_sr (s : State) : (powerCycle s).sr = 0#8 := rfl
@[simp] theorem powerCycle_bitcnt (s : State) : (powerCycle s).bitcnt = 0 := rfl
@[simp] theorem powerCycle_sel (s : State) : (powerCycle s).sel = false := rfl
@[simp] theorem powerCycle_synclvl (s : State) : (powerCycle s).synclvl = false := rfl
@[simp] theorem powerCycle_cmp (s : State) : (powerCycle s).cmp = Vector.replicate 9 IDLE_US := rfl
@[simp] theorem powerCycle_live (s : State) : (powerCycle s).live = Vector.replicate 9 IDLE_US := rfl
@[simp] theorem powerCycle_cnt (s : State) : (powerCycle s).cnt = s.cfg.pwmPhase0 := rfl
@[simp] theorem powerCycle_ovr (s : State) : (powerCycle s).ovr = false := rfl
@[simp] theorem powerCycle_trace (s : State) : (powerCycle s).trace = s.trace := rfl
@[simp] theorem powerCycle_draws (s : State) : (powerCycle s).draws = s.draws + 1 := rfl

end Sys2Proof.Machine
end

