-- ==== Sys2Proof/Laws/Ops.lean ====
section
/-! SUPPORT. What the shared operations can do, each said once: the position filter, the pulse widths, the FIFO push,
the selection of a micro-step, `exec` of every operation as its effect, and runs. -/

namespace Sys2Proof.Machine

/-! ### Position filter -/

/-- The filter stores position `idx` at offset `i` exactly when `idx` is the `i`-th position of the node's slice. -/
theorem sliceOffset_eq_some (g : Config) (idx : Nat) (i : Chan) :
    sliceOffset g idx = some i ↔ idx = g.nodeId.val * 9 + i.val := by
  unfold sliceOffset myEnd myStart
  simp only [CH_PER_NODE]
  have := i.isLt
  split <;> rename_i h
  · simp only [Option.some.injEq, Fin.ext_iff]; omega
  · simp only [reduceCtorEq, false_iff]; omega

/-- Each element of `PEND` after the position filter. -/
theorem storePending_get (g : Config) (idx : Nat) (b : Byte) (p : Nine Byte) (i : Chan) :
    (storePending g idx b p)[i] = if idx = g.nodeId.val * 9 + i.val then b else p[i] := by
  unfold storePending
  have key := sliceOffset_eq_some g idx
  cases h : sliceOffset g idx with
  | none =>
    have hn : ¬ idx = g.nodeId.val * 9 + i.val := by rw [← key i, h]; simp
    simp [hn]
  | some j =>
    have hj := (key j).1 h
    have hij : j.val = i.val ↔ idx = g.nodeId.val * 9 + i.val := by omega
    simp [Vector.getElem_set, hij]

theorem nextPosition_le {fp : Nat} (h : fp ≤ 36) : nextPosition fp ≤ 36 := by
  unfold nextPosition; simp only [FRAME_BYTES]; split <;> omega

/-! ### Pulse widths -/

theorem clampPulse_range (us : Nat) : 1000 ≤ clampPulse us ∧ clampPulse us ≤ 2000 := by
  simp only [clampPulse, IDLE_US, MAX_US]; omega

theorem clampPulse_of_range {us : Nat} (h : 1000 ≤ us) (h' : us ≤ 2000) : clampPulse us = us := by
  simp only [clampPulse, IDLE_US, MAX_US]; omega

theorem mapUs_range (v : Byte) : 1000 ≤ mapUs v ∧ mapUs v ≤ 2000 := by
  unfold mapUs; split <;> simp only [IDLE_US, MIN_ACTIVE_US, MAX_US] <;> omega

@[simp] theorem clampPulse_mapUs (v : Byte) : clampPulse (mapUs v) = mapUs v :=
  clampPulse_of_range (mapUs_range v).1 (mapUs_range v).2

@[simp] theorem clampPulse_idle : clampPulse 1000 = 1000 := rfl

/-! ### FIFO -/

theorem fifoPushed_of_room {s : State} (v : Byte) (h : s.fifo.length < s.cfg.fifoDepth) :
    s.fifoPushed v = s.fifo ++ [v] := by simp [State.fifoPushed, State.fifoFull, h]

theorem fifoPushed_of_full {s : State} (v : Byte) (h : s.cfg.fifoDepth ≤ s.fifo.length) :
    s.fifoPushed v = s.fifo := by simp [State.fifoPushed, State.fifoFull, h]

theorem le_fifoPushed_length (s : State) (v : Byte) : s.fifo.length ≤ (s.fifoPushed v).length := by
  by_cases hf : s.fifo.length < s.cfg.fifoDepth
  · simp [fifoPushed_of_room v hf]
  · simp [fifoPushed_of_full v (Nat.le_of_not_lt hf)]

theorem fifoPushed_length_le (s : State) (v : Byte) (h : s.fifo.length ≤ s.cfg.fifoDepth) :
    (s.fifoPushed v).length ≤ s.cfg.fifoDepth := by
  by_cases hf : s.fifo.length < s.cfg.fifoDepth
  · rw [fifoPushed_of_room v hf, List.length_append, List.length_singleton]; omega
  · rw [fifoPushed_of_full v (by omega)]; exact h

theorem drainByte_cons {s : State} {b : Byte} {rest : List Byte} (h : s.fifo = b :: rest) :
    drainByte s = { s with
      fifo := rest, lastbyte := s.now, fp := nextPosition s.fp, pend := storePending s.cfg s.fp b s.pend } := by
  unfold drainByte; rw [h]

/-! ### Selection -/

theorem selected_eq_drain {s : State} : s.selected = .drain ↔ s.phase = .a ∧ s.fifo ≠ [] := by
  unfold State.selected
  cases s.phase <;> cases s.fifo <;> cases s.syncflag <;> simp

theorem selected_eq_svc {s : State} : s.selected = .svc ↔ s.phase = .b ∧ s.syncflag = true := by
  unfold State.selected
  cases s.phase <;> cases s.fifo <;> cases s.syncflag <;> simp

theorem selected_eq_bapply {s : State} : s.selected = .bapply ↔ s.phase = .bapply := by
  unfold State.selected
  cases s.phase <;> cases s.fifo <;> cases s.syncflag <;> simp

/-- A micro-step asked for by name answers its effect exactly where the state selects it. -/
theorem runSelected_next {m : MicroStep} {s t : State} :
    runSelected m s = .next t ↔ s.selected = m ∧ t = microEffect m s := by
  unfold runSelected
  split <;> rename_i h <;> simp [h, eq_comm]

/-- A command form answers the `BAPPLY` of its pulse exactly where the sequencer reads that byte. -/
theorem runCommand_next {v : Byte} {us : Nat} {s t : State} :
    runCommand v us s = .next t ↔ s.readsCommand v = true ∧ t = applyPulse us s := by
  unfold runCommand
  split <;> rename_i h <;> simp [h, eq_comm]

/-! ### `exec` of each operation -/

@[simp] theorem exec_rxb (v : Byte) (s : State) : exec (.rxb v) s = .next (fifoPush v s) := rfl
@[simp] theorem exec_sbit (b : Bool) (s : State) : exec (.sbit b) s = .next (serialBit b s) := rfl
@[simp] theorem exec_csa (s : State) : exec .csa s = .next (chipSelect true s) := rfl
@[simp] theorem exec_csd (s : State) : exec .csd s = .next (chipSelect false s) := rfl
@[simp] theorem exec_sync (l : Bool) (s : State) : exec (.sync l) s = .next (syncLevel l s) := rfl
@[simp] theorem exec_rst (s : State) : exec .rst s = .next (powerCycle s) := rfl
@[simp] theorem exec_step (s : State) : exec .step s = .next (sequencerStep s) := rfl
@[simp] theorem exec_map (v : Byte) (s : State) : exec (.map v) s = .next s := rfl
@[simp] theorem exec_edgeHandler (s : State) : exec .edgeHandler s = .next (edgeHandler s) := rfl
@[simp] theorem exec_fifoPush (v : Byte) (s : State) : exec (.fifoPush v) s = .next (fifoPush v s) := rfl
@[simp] theorem exec_pwmAdvance (d : BitVec 28) (s : State) :
    exec (.pwmAdvance d) s = .next (pwmAdvance d.toNat s) := rfl

@[simp] theorem exec_microStep (m : MicroStep) (s : State) : exec m.instr s = runSelected m s := by cases m <;> rfl

theorem exec_adv {d : BitVec 28} (h : d ≠ 0#28) (s : State) : exec (.adv d) s = .next (advance d.toNat s) := by
  simp [exec, execAdv, h]

/-! ### Runs -/

@[simp] theorem chain_next {σ τ : Type} (s : σ) (f : σ → Host.Outcome τ Fault Refusal) : chain (.next s) f = f s := rfl

theorem chain_eq_next {σ τ : Type} {o : Host.Outcome σ Fault Refusal} {f : σ → Host.Outcome τ Fault Refusal} {t : τ} :
    chain o f = .next t ↔ ∃ s, o = .next s ∧ f s = .next t := by
  cases o <;> simp [chain]

@[simp] theorem runOps_nil (s : State) : runOps [] s = .next s := rfl

@[simp] theorem runOps_cons (i : Instr) (rest : List Instr) (s : State) :
    runOps (i :: rest) s = chain (exec i s) (runOps rest) := rfl

/-- A run over two parts is the run of the second after the first. -/
theorem runOps_append (is js : List Instr) (s : State) :
    runOps (is ++ js) s = chain (runOps is s) (runOps js) := by
  induction is generalizing s with
  | nil => rfl
  | cons i rest ih =>
    simp only [List.cons_append, runOps_cons]
    cases exec i s <;> simp [chain, ih]

end Sys2Proof.Machine
end

