-- ==== Sys2Proof/Laws/PerInstr.lean ====
section
/-! SUPPORT. A statement made per instruction: the code of an operation, when it has one, has the shape of its format
(R80 to R84). One lemma per constructor of `Instr`. -/

namespace Sys2Proof.Laws.CodeShape

/-- The code has the shape of its format: a trace word's `op` is not reserved (R90), a serial word has eight samples
(R80), a frame has 36 bytes (R81). -/
def shaped : Code → Prop
  | .trace w => (opOf w).toNat < 8
  | .command _ => True
  | .serial samples => samples.length = 8
  | .frame bytes => bytes.length = 36

/-- Every code the encoder gives for `i` has the shape of its format. -/
def Statement (i : Instr) : Prop := ∀ code, encode i = some code → shaped code

theorem of_trace {i : Instr} {op : BitVec 4} {arg : BitVec 28} (h : encode i = some (.trace (traceWord op arg)))
    (hop : op.toNat < 8) : Statement i := by
  intro code hc
  rw [h] at hc
  cases hc
  simpa [shaped] using hop

theorem of_command {i : Instr} {v : Byte} (h : encode i = some (.command v)) : Statement i := by
  intro code hc
  rw [h] at hc
  cases hc
  trivial

theorem of_none {i : Instr} (h : encode i = none) : Statement i := by
  intro code hc
  rw [h] at hc
  cases hc

theorem rxb (v : Byte) : Statement (.rxb v) := of_trace rfl (by decide)
theorem sbit (b : Bool) : Statement (.sbit b) := of_trace rfl (by decide)
theorem csa : Statement .csa := of_trace rfl (by decide)
theorem csd : Statement .csd := of_trace rfl (by decide)
theorem sync (l : Bool) : Statement (.sync l) := of_trace rfl (by decide)
theorem adv (d : BitVec 28) : Statement (.adv d) := of_trace rfl (by decide)
theorem rst : Statement .rst := of_trace rfl (by decide)
theorem step : Statement .step := of_trace rfl (by decide)
theorem drain : Statement .drain := of_trace rfl (by decide)
theorem drainx : Statement .drainx := of_trace rfl (by decide)
theorem svc : Statement .svc := of_trace rfl (by decide)
theorem nosvc : Statement .nosvc := of_trace rfl (by decide)
theorem bapply : Statement .bapply := of_trace rfl (by decide)
theorem bend : Statement .bend := of_trace rfl (by decide)
theorem wdg : Statement .wdg := of_trace rfl (by decide)
theorem capply : Statement .capply := of_trace rfl (by decide)
theorem cind : Statement .cind := of_trace rfl (by decide)
theorem cmdStop : Statement .cmdStop := of_command rfl
theorem cmdDrive (v : Byte) : Statement (.cmdDrive v) := of_command rfl
theorem serialWord (v : Byte) : Statement (.serialWord v) := by intro code hc; cases hc; rfl
theorem frame (bytes : Vector Byte 36) : Statement (.frame bytes) := by
  intro code hc
  cases hc
  simp [shaped]
theorem setPulse (i us : Nat) : Statement (.setPulse i us) := of_none rfl
theorem map (v : Byte) : Statement (.map v) := of_none rfl
theorem edgeHandler : Statement .edgeHandler := of_none rfl
theorem fifoPush (v : Byte) : Statement (.fifoPush v) := of_none rfl
theorem pwmAdvance (d : BitVec 28) : Statement (.pwmAdvance d) := of_none rfl

end Sys2Proof.Laws.CodeShape
end

