-- ==== Sys2Proof/Laws/Runs.lean ====
section
/-! SUPPORT. The sequencer's step by phase, each said once with all it does, and how a run is taken apart at its first
operation; and that the host's ways of keeping the settle time and the quiet time keep them. -/

namespace Sys2Proof.Machine

/-! ### The sequencer's step by phase (R88) -/

theorem sequencerStep_drain {s : State} {b : Byte} {rest : List Byte} (hp : s.phase = .a) (hf : s.fifo = b :: rest) :
    sequencerStep s = { s with
      fifo := rest, lastbyte := s.now, fp := nextPosition s.fp, pend := storePending s.cfg s.fp b s.pend } := by
  have hs : s.selected = .drain := selected_eq_drain.2 ⟨hp, by simp [hf]⟩
  simp only [sequencerStep, hs, microEffect, drainByte_cons hf]

theorem sequencerStep_drainx {s : State} (hp : s.phase = .a) (hf : s.fifo = []) :
    sequencerStep s = { s with phase := .b } := by
  simp [sequencerStep, State.selected, hp, hf, microEffect, enterPhase]

theorem sequencerStep_svc {s : State} (hp : s.phase = .b) (hf : s.syncflag = true) :
    sequencerStep s = takeSnapshot s := by
  simp [sequencerStep, State.selected, hp, hf, microEffect]

theorem sequencerStep_nosvc {s : State} (hp : s.phase = .b) (hf : s.syncflag = false) :
    sequencerStep s = { s with phase := .c } := by
  simp [sequencerStep, State.selected, hp, hf, microEffect, enterPhase]

theorem sequencerStep_bapply {s : State} (hp : s.phase = .bapply) :
    sequencerStep s = { s with
      cmp := s.cmp.set s.chidx (mapUs s.actv[s.chidx])
      chidx := if s.chidx = 8 then 0 else s.chidx + 1
      phase := if s.chidx = 8 then .bend else .bapply } := by
  simp [sequencerStep, State.selected, hp, microEffect, applyPulse, nextChannel, setPulse, State.commandByte]

theorem sequencerStep_bend {s : State} (hp : s.phase = .bend) :
    sequencerStep s = { s with fp := 0, phase := .c } := by
  simp [sequencerStep, State.selected, hp, microEffect, endService]

theorem sequencerStep_wdg {s : State} (hp : s.phase = .c) :
    sequencerStep s = { s with
      chidx := if s.stale then 0 else s.chidx, phase := if s.stale then .capply else .a } := by
  simp [sequencerStep, State.selected, hp, microEffect, watchdogCheck]

theorem sequencerStep_capply {s : State} (hp : s.phase = .capply) :
    sequencerStep s = { s with
      cmp := s.cmp.set s.chidx 1000
      chidx := if s.chidx = 8 then 0 else s.chidx + 1
      phase := if s.chidx = 8 then .cind else .capply } := by
  simp [sequencerStep, State.selected, hp, microEffect, forceIdle, nextChannel, setPulse]

theorem sequencerStep_cind {s : State} (hp : s.phase = .cind) :
    sequencerStep s = { s with status := faultWave s.cfg s.now, phase := .a } := by
  simp [sequencerStep, State.selected, hp, microEffect, driveFaultWave]

/-! ### Runs -/

/-- An operation of a run is enabled in every state (R182). -/
theorem exec_of_isRunOp {i : Instr} (h : isRunOp i = true) (s : State) : ∃ t, exec i s = .next t := by
  cases i <;> simp only [isRunOp, bne_iff_ne, ne_eq, Bool.false_eq_true] at h <;>
    first | exact ⟨_, rfl⟩ | exact ⟨_, exec_adv h s⟩

/-- So is a later `RST` (R8, D23). -/
theorem exec_of_isTraceOp {i : Instr} (h : isTraceOp i = true) (s : State) : ∃ t, exec i s = .next t := by
  simp only [isTraceOp, Bool.or_eq_true, beq_iff_eq] at h
  rcases h with h | rfl
  · exact exec_of_isRunOp h s
  · exact ⟨_, rfl⟩

/-- The first operations of an infinite run are a finite sequence that leads to its states. -/
theorem InfiniteRun.firstOps {ops : Nat → Instr} {states : Nat → State} (h : InfiniteRun ops states) (n : Nat) :
    runOps ((List.range n).map ops) (states 0) = .next (states n) := by
  induction n with
  | zero => rfl
  | succ n ih => rw [List.range_succ, List.map_append, runOps_append, ih]; simp [h.follows n]

theorem runOps_cons_eq_next {i : Instr} {ops : List Instr} {s t : State} :
    runOps (i :: ops) s = .next t ↔ ∃ u, exec i s = .next u ∧ runOps ops u = .next t := by
  rw [runOps_cons, chain_eq_next]

theorem collect_cons {α : Type} {f : Instr → State → List α} {i : Instr} {ops : List Instr} {s u : State}
    (h : exec i s = .next u) : collect f (i :: ops) s = f i s ++ collect f ops u := by
  simp [collect, h]

theorem everyOp_cons {p : Instr → State → Bool} {i : Instr} {ops : List Instr} {s u : State}
    (h : exec i s = .next u) : everyOp p (i :: ops) s = (p i s && everyOp p ops u) := by
  simp [everyOp, h]

/-! ### Quiet time (R225) -/

/-- While an edge is flagged and step A is to come, the FIFO holds at most the bytes that came before the edge. -/
def OnlyOldBytes (old : Nat) (s : State) : Prop := s.syncflag = true → s.phase ≠ .b → s.fifo.length ≤ old

/-- An operation that sends nothing in the quiet time keeps this. -/
theorem onlyOldBytes_exec {i : Instr} {old : Nat} {s t : State} (hi : isTraceOp i = true) (hq : sendsQuiet i s = true)
    (h : OnlyOldBytes old s) (ht : exec i s = .next t) :
    OnlyOldBytes (bytesBeforeEdge (isEdge i s && !s.syncflag) old i s) t := by
  cases i <;> simp [isTraceOp, isRunOp] at hi
  case rxb v =>
    cases ht
    intro hf hp
    simp only [fifoPush_syncflag, fifoPush_phase] at hf hp
    simp [sendsQuiet, pushedBy, hf, hp] at hq
  case sbit b =>
    cases ht
    intro hf hp
    simp only [serialBit_syncflag, serialBit_phase] at hf hp
    have hb : s.byteEnds = false := by simpa [sendsQuiet, pushedBy, hf, hp] using hq
    simpa [bytesBeforeEdge, isEdge, resolvesTo, hb] using h hf hp
  case csa => cases ht; exact h
  case csd => cases ht; exact h
  case sync l =>
    cases ht
    intro _ hp
    simp only [syncLevel_phase] at hp
    cases hf : s.syncflag <;> cases hr : s.risingEdge l <;> simp_all [bytesBeforeEdge, isEdge, resolvesTo, OnlyOldBytes]
  case adv d => rw [exec_adv hi] at ht; cases ht; exact h
  case step =>
    cases ht
    intro hf hp
    cases hph : s.phase with
    | a =>
      cases hfifo : s.fifo with
      | nil => simp [sequencerStep_drainx hph hfifo] at hp
      | cons b rest =>
        have hsel : s.selected = .drain := selected_eq_drain.2 ⟨hph, by simp [hfifo]⟩
        rw [sequencerStep_drain hph hfifo] at hf ⊢
        have := h hf (by simp [hph])
        simp only [bytesBeforeEdge, isEdge, resolvesTo, hsel, hfifo, List.length_cons] at this ⊢
        simp
        omega
    | b =>
      cases hfl : s.syncflag with
      | false => simp [sequencerStep_nosvc hph hfl, hfl] at hf
      | true => simp [sequencerStep_svc hph hfl] at hf
    | _ =>
      simp only [bytesBeforeEdge, isEdge, resolvesTo]
      simp_all [sequencerStep, State.selected, microEffect, OnlyOldBytes]
  case rst => cases ht; intro hf; simp at hf

/-- A host that sends nothing in the quiet time keeps R225, whatever else happens. -/
theorem dutyQuiet_of_sendsQuiet {ops : List Instr} : ∀ {old : Nat} {s : State}, ops.all isTraceOp = true →
    OnlyOldBytes old s → everyOp sendsQuiet ops s = true → dutyQuiet old ops s = true := by
  induction ops with
  | nil => intros; rfl
  | cons i ops ih =>
    intro old s hops h hq
    simp only [List.all_cons, Bool.and_eq_true] at hops
    obtain ⟨t, ht⟩ := exec_of_isTraceOp hops.1 s
    rw [everyOp_cons ht, Bool.and_eq_true] at hq
    simp only [dutyQuiet, ht, Bool.and_eq_true]
    refine ⟨?_, ih hops.2 (onlyOldBytes_exec hops.1 hq.1 h ht) hq.2⟩
    by_cases hd : resolvesTo .drain i s = true
    · obtain ⟨hp, hf⟩ : s.phase = .a ∧ s.fifo ≠ [] := by
        simp only [resolvesTo, Bool.and_eq_true, beq_iff_eq] at hd
        exact selected_eq_drain.1 hd.2
      have hlen : 0 < s.fifo.length := List.length_pos_iff.2 hf
      cases hflag : s.syncflag with
      | false => simp
      | true =>
        have := h hflag (by simp [hp])
        have : old ≠ 0 := by omega
        simp [this]
    · simp [resolvesElse, hd]

/-! ### Settle time (R224) -/

/-- With `gap` the time since the last `STEP` and `age` that since the last byte: the bytes from before the edge are among
those in the FIFO; and in phase B, where the FIFO was found empty at the last `STEP`, there are none of them, and
whatever the FIFO holds came since. -/
structure Settled (old gap : Nat) (age : Option Nat) (s : State) : Prop where
  old_le : old ≤ s.fifo.length
  old_eq : s.phase = .b → old = 0
  young : s.phase = .b → s.fifo ≠ [] → ∃ a, age = some a ∧ a ≤ gap

@[simp] theorem byteAgeAfter_rxb (age : Option Nat) (v : Byte) (s : State) :
    byteAgeAfter age (.rxb v) s = some 0 := rfl
@[simp] theorem byteAgeAfter_sbit (age : Option Nat) (b : Bool) (s : State) :
    byteAgeAfter age (.sbit b) s = if s.byteEnds then some 0 else age := by
  change (if (if s.byteEnds then [shiftIn s.sr b] else []).isEmpty then age else some 0) = _
  cases s.byteEnds <;> rfl

/-- An operation inside the bound between `STEP`s, and after the gap when it is an edge, keeps this. -/
theorem settled_exec {i : Instr} {old gap bound : Nat} {age : Option Nat} {s t : State} (hi : isTraceOp i = true)
    (hgap : gapAfter i gap ≤ bound) (hedge : (!isEdge i s || age.all (bound < ·)) = true)
    (h : Settled old gap age s) (ht : exec i s = .next t) :
    Settled (bytesBeforeEdge (isEdge i s) old i s) (gapAfter i gap) (byteAgeAfter age i s) t := by
  obtain ⟨hle, hold, hyoung⟩ := h
  cases i <;> simp [isTraceOp, isRunOp] at hi
  case rxb v =>
    cases ht
    refine ⟨?_, fun hp => hold hp, fun _ _ => ⟨0, rfl, Nat.zero_le _⟩⟩
    exact hle.trans (le_fifoPushed_length s v)
  case sbit b =>
    cases ht
    cases hb : s.byteEnds
    · refine ⟨?_, fun hp => hold hp, fun hp hf => ?_⟩
      · simpa [bytesBeforeEdge, isEdge, resolvesTo, hb] using hle
      · simpa [gapAfter, hb] using hyoung hp (by simpa [hb] using hf)
    · refine ⟨?_, fun hp => hold hp, fun _ _ => ⟨0, by simp [hb], Nat.zero_le _⟩⟩
      simpa [bytesBeforeEdge, isEdge, resolvesTo, hb] using hle.trans (le_fifoPushed_length s _)
  case csa => cases ht; exact ⟨hle, hold, hyoung⟩
  case csd => cases ht; exact ⟨hle, hold, hyoung⟩
  case sync l =>
    cases ht
    cases hr : s.risingEdge l
    · refine ⟨?_, fun hp => ?_, fun hp hf => ?_⟩
      · simpa [bytesBeforeEdge, isEdge, resolvesTo, hr] using hle
      · simpa [bytesBeforeEdge, isEdge, resolvesTo, hr] using hold (by simpa using hp)
      · exact hyoung (by simpa using hp) (by simpa using hf)
    · have hnil : s.phase = .b → s.fifo = [] := fun hp => by
        by_contra hf
        obtain ⟨a, rfl, ha⟩ := hyoung hp hf
        simp only [gapAfter] at hgap
        simp [isEdge, hr] at hedge
        omega
      refine ⟨by simp [bytesBeforeEdge, isEdge, hr], fun hp => ?_, fun hp hf => ?_⟩
      · simp [bytesBeforeEdge, isEdge, hr, hnil (by simpa using hp)]
      · exact absurd (hnil (by simpa using hp)) (by simpa using hf)
  case adv d =>
    rw [exec_adv hi] at ht
    cases ht
    refine ⟨hle, hold, fun hp hf => ?_⟩
    obtain ⟨a, rfl, ha⟩ := hyoung hp hf
    exact ⟨a + d.toNat, rfl, by simp only [gapAfter]; omega⟩
  case step =>
    cases ht
    cases hph : s.phase with
    | a =>
      cases hfifo : s.fifo with
      | nil =>
        have : old = 0 := by simpa [hfifo] using hle
        rw [sequencerStep_drainx hph hfifo]
        have hsel : s.selected ≠ .drain := fun e => by simp [selected_eq_drain, hfifo] at e
        exact ⟨by simp [bytesBeforeEdge, isEdge, resolvesTo, this], fun _ => by
          simp [bytesBeforeEdge, isEdge, resolvesTo, this], fun _ hf => absurd hfifo hf⟩
      | cons b rest =>
        have hsel : s.selected = .drain := selected_eq_drain.2 ⟨hph, by simp [hfifo]⟩
        rw [sequencerStep_drain hph hfifo]
        refine ⟨?_, fun hp => by simp [hph] at hp, fun hp => by simp [hph] at hp⟩
        simp only [hfifo, List.length_cons] at hle
        simp [bytesBeforeEdge, isEdge, resolvesTo, hsel]
        omega
    | b =>
      have : old = 0 := hold hph
      have hz : bytesBeforeEdge (isEdge .step s) old .step s = 0 := by
        simp [bytesBeforeEdge, isEdge, this]
      have hp : (sequencerStep s).phase ≠ .b := by
        cases hfl : s.syncflag
        · simp [sequencerStep_nosvc hph hfl]
        · simp [sequencerStep_svc hph hfl]
      exact ⟨by omega, fun _ => hz, fun hp' => absurd hp' hp⟩
    | _ =>
      have hp : (sequencerStep s).phase ≠ .b ∧ (sequencerStep s).fifo = s.fifo := by
        simp [sequencerStep, State.selected, hph, microEffect] <;> split <;> simp
      refine ⟨?_, fun hp' => absurd hp' hp.1, fun hp' => absurd hp' hp.1⟩
      rw [hp.2]
      simpa [bytesBeforeEdge, isEdge, resolvesTo, State.selected, hph] using hle
  case rst => cases ht; exact ⟨Nat.zero_le _, fun _ => rfl, fun _ hf => absurd rfl hf⟩

/-- A host that leaves the gap of R224 before each edge, and a sequencer that keeps the bound, keep the settle time,
whatever else happens. -/
theorem dutySettle_of_gapBeforeEdge {bound : Nat} {ops : List Instr} : ∀ {old gap : Nat} {age : Option Nat} {s : State},
    ops.all isTraceOp = true → Settled old gap age s → stepGapsWithin bound gap ops = true →
    gapBeforeEdge bound age ops s = true → dutySettle old ops s = true := by
  induction ops with
  | nil => intros; rfl
  | cons i ops ih =>
    intro old gap age s hops h hg he
    simp only [List.all_cons, Bool.and_eq_true] at hops
    obtain ⟨t, ht⟩ := exec_of_isTraceOp hops.1 s
    simp only [stepGapsWithin, Bool.and_eq_true, decide_eq_true_eq] at hg
    simp only [gapBeforeEdge, ht, Bool.and_eq_true] at he
    simp only [dutySettle, ht, Bool.and_eq_true]
    refine ⟨?_, ih hops.2 (settled_exec hops.1 hg.1 he.1 h ht) hg.2 he.2⟩
    by_cases hs : resolvesTo .svc i s = true
    · have hp : s.phase = .b := by
        simp only [resolvesTo, Bool.and_eq_true, beq_iff_eq] at hs
        exact (selected_eq_svc.1 hs.2).1
      simp [h.old_eq hp]
    · simp [resolvesElse, hs]

end Sys2Proof.Machine
end

