-- ==== Sys2Proof/Tests/Slice0.lean ====
section
/-! SUPPORT. Tests of the model against the spec's own vectors (`95_test_vectors.md`), encodings and tables, and for
every statement with hypotheses a named theorem that meets all of them. Expected values come from the spec's text. -/

namespace Sys2Proof.Tests

open Sys2Proof Sys2Proof.Machine

/-! ### Helpers -/

/-- The state after power-on of node `n` with the reference parameters and `T0` = 0, as part 2 of the vectors has it. -/
def node (n : Fin 4) : State := State.powerOn (Config.reference n) 0

/-- The outcome is a next state with the property `p`. -/
def nextWith {σ : Type} (o : Host.Outcome σ Fault Refusal) (p : σ → Bool) : Bool :=
  match o with
  | .next s => p s
  | .fault _ => false
  | .refused _ => false

/-- The outcome is the refusal `r`. -/
def refusedAs {σ : Type} (o : Host.Outcome σ Fault Refusal) (r : Refusal) : Bool :=
  match o with
  | .next _ => false
  | .fault _ => false
  | .refused q => q == r

theorem exists_of_nextWith {σ : Type} {o : Host.Outcome σ Fault Refusal} {p : σ → Bool} (h : nextWith o p = true) :
    ∃ t, o = .next t ∧ p t = true := by
  cases o with
  | next s => exact ⟨s, rfl, h⟩
  | fault r => cases h
  | refused r => cases h

/-- The slice of scenario 3 and of vector V48. -/
def slice3 : Nine Byte := #v[0, 1, 64, 128, 191, 254, 255, 0, 128]

/-- The bytes 1, 2, ..., 36. -/
def frame36 : Vector Byte 36 := Vector.ofFn fun g : Fin 36 => BitVec.ofNat 8 (g.val + 1)

/-- A state that no test before it is near: node 3 at its last slice position, high sync input, a byte half received,
and three trace words pending. -/
def busy : State :=
  { node 3 with
    fp := 35, synccnt := 19, now := 500000, lastsync := 299999, lastbyte := 499999, fifo := [0x99#8, 0x55#8]
    sel := true, bitcnt := 7, sr := 0x52#8, synclvl := true, syncflag := true
    pend := slice3, cmp := Vector.replicate 9 2000, cnt := Vector.replicate 9 19999
    trace := [0x20000001#32, 0x00000000#32, 0x00000000#32] }

/-! ### Well-formedness: one ill-formed term for each check (R90, R82, R100) -/

theorem test_wf_adv_refuses_zero : (Instr.adv 0#28).wf = false ∧ (Instr.adv 1#28).wf = true := by decide
theorem test_wf_cmdDrive_refuses_zero : (Instr.cmdDrive 0#8).wf = false ∧ (Instr.cmdDrive 255#8).wf = true := by decide
theorem test_wf_setPulse_refuses_channel_nine :
    (Instr.setPulse 9 1500).wf = false ∧ (Instr.setPulse 8 1500).wf = true := by decide
theorem test_wf_pwmAdvance_refuses_zero :
    (Instr.pwmAdvance 0#28).wf = false ∧ (Instr.pwmAdvance 1#28).wf = true := by decide

/-! ### Decoding: words written out from R84, R82, R80, R81 -/

theorem test_decode_rxb : decode (.trace 0b00010000000000000000000000000101#32) = .ok (.rxb 5#8) := rfl
theorem test_decode_rxb_msb : decode (.trace 0b00010000000000000000000010000000#32) = .ok (.rxb 128#8) := rfl
theorem test_decode_sbit : decode (.trace 0b00100000000000000000000000000001#32) = .ok (.sbit true) := rfl
theorem test_decode_csa : decode (.trace 0b00110000000000000000000000000000#32) = .ok .csa := rfl
theorem test_decode_csd : decode (.trace 0b01000000000000000000000000000000#32) = .ok .csd := rfl
theorem test_decode_sync : decode (.trace 0b01010000000000000000000000000001#32) = .ok (.sync true) := rfl
theorem test_decode_sync_low : decode (.trace 0b01010000000000000000000000000000#32) = .ok (.sync false) := rfl
theorem test_decode_adv : decode (.trace 0b01100000000000000010011100010000#32) = .ok (.adv 10000#28) := rfl
theorem test_decode_adv_greatest : decode (.trace 0b01101111111111111111111111111111#32) = .ok (.adv 268435455#28) := rfl
theorem test_decode_rst : decode (.trace 0b01110000000000000000000000000000#32) = .ok .rst := rfl
theorem test_decode_step : decode (.trace 0b00000000000000000000000000000000#32) = .ok .step := rfl
theorem test_decode_cmdStop : decode (.command 0b00000000#8) = .ok .cmdStop := rfl
theorem test_decode_cmdDrive : decode (.command 0b10000000#8) = .ok (.cmdDrive 128#8) := rfl
/-- V25: the samples 1, 0, 1, 0, 0, 1, 0, 1 are the byte 0xA5. -/
theorem test_decode_serialWord :
    decode (.serial [true, false, true, false, false, true, false, true]) = .ok (.serialWord 0xA5#8) := rfl
theorem test_decode_frame : decode (.frame frame36.toList) = .ok (.frame frame36) := rfl
/-- V67, and each field that must be zero. -/
theorem test_decode_refuses :
    decode (.trace 0x80000000#32) = .error .reservedOp ∧ decode (.trace 0xFFFFFFFF#32) = .error .reservedOp ∧
    decode (.trace 0x60000000#32) = .error .advZero ∧ decode (.trace 0x10000100#32) = .error .mustBeZero ∧
    decode (.trace 0x00000001#32) = .error .mustBeZero ∧ decode (.trace 0x20000002#32) = .error .mustBeZero ∧
    decode (.trace 0x30000001#32) = .error .mustBeZero ∧ decode (.trace 0x40000001#32) = .error .mustBeZero ∧
    decode (.trace 0x58000000#32) = .error .mustBeZero ∧ decode (.trace 0x77777777#32) = .error .mustBeZero ∧
    decode (.serial [true]) = .error .serialLength ∧ decode (.frame [1#8]) = .error .frameLength := by
  refine ⟨rfl, rfl, rfl, rfl, rfl, rfl, rfl, rfl, rfl, rfl, rfl, rfl⟩
/-- The nine micro-steps: the word of `STEP`, selected by the state (the rows of R88). -/
theorem test_decode_micro_steps :
    ({ node 1 with fifo := [1#8] } : State).selected = .drain ∧ (node 1).selected = .drainx ∧
    ({ node 1 with phase := .b, syncflag := true } : State).selected = .svc ∧
    ({ node 1 with phase := .b } : State).selected = .nosvc ∧
    ({ node 1 with phase := .bapply } : State).selected = .bapply ∧
    ({ node 1 with phase := .bend } : State).selected = .bend ∧
    ({ node 1 with phase := .c } : State).selected = .wdg ∧
    ({ node 1 with phase := .capply } : State).selected = .capply ∧
    ({ node 1 with phase := .cind } : State).selected = .cind := by decide
/-- The five functions have no encoding (`opcode_table.json`). -/
theorem test_encode_functions :
    encode (.setPulse 0 0) = none ∧ encode (.map 1#8) = none ∧ encode .edgeHandler = none ∧
    encode (.fifoPush 1#8) = none ∧ encode (.pwmAdvance 1#28) = none := by decide
theorem test_decodeTableWord :
    decodeTableWord 32 0x100000FF = some (.rxb 255#8) ∧ decodeTableWord 8 0 = some .cmdStop ∧
    decodeTableWord 8 0x40 = some (.cmdDrive 64#8) ∧ decodeTableWord 32 0x60000000 = none := by decide
/-- A placed trace word and a placed command byte run at the very next step (log 3). -/
theorem test_withFetchWord :
    nextWith (step ((node 1).withFetchWord 32 0x10000009)) (fun t => t == { node 1 with fifo := [9#8] }) = true ∧
    nextWith (step ((node 1).withFetchWord 8 0x40)) (fun t => t.cmp[0] == 1400 && t.chidx == 1) = true := by
  decide

/-! ### `Map`: the table of R114, and the worked values of scenario 3 -/

theorem test_map_table : ((List.range 256).map fun v => mapUs (BitVec.ofNat 8 v)) =
  [1000, 1203, 1206, 1209, 1212, 1215, 1218, 1221, 1225, 1228, 1231, 1234, 1237, 1240, 1243, 1247] ++
  [1250, 1253, 1256, 1259, 1262, 1265, 1269, 1272, 1275, 1278, 1281, 1284, 1287, 1290, 1294, 1297] ++
  [1300, 1303, 1306, 1309, 1312, 1316, 1319, 1322, 1325, 1328, 1331, 1334, 1338, 1341, 1344, 1347] ++
  [1350, 1353, 1356, 1360, 1363, 1366, 1369, 1372, 1375, 1378, 1381, 1385, 1388, 1391, 1394, 1397] ++
  [1400, 1403, 1407, 1410, 1413, 1416, 1419, 1422, 1425, 1429, 1432, 1435, 1438, 1441, 1444, 1447] ++
  [1450, 1454, 1457, 1460, 1463, 1466, 1469, 1472, 1476, 1479, 1482, 1485, 1488, 1491, 1494, 1498] ++
  [1501, 1504, 1507, 1510, 1513, 1516, 1520, 1523, 1526, 1529, 1532, 1535, 1538, 1541, 1545, 1548] ++
  [1551, 1554, 1557, 1560, 1563, 1567, 1570, 1573, 1576, 1579, 1582, 1585, 1589, 1592, 1595, 1598] ++
  [1601, 1604, 1607, 1610, 1614, 1617, 1620, 1623, 1626, 1629, 1632, 1636, 1639, 1642, 1645, 1648] ++
  [1651, 1654, 1658, 1661, 1664, 1667, 1670, 1673, 1676, 1680, 1683, 1686, 1689, 1692, 1695, 1698] ++
  [1701, 1705, 1708, 1711, 1714, 1717, 1720, 1723, 1727, 1730, 1733, 1736, 1739, 1742, 1745, 1749] ++
  [1752, 1755, 1758, 1761, 1764, 1767, 1770, 1774, 1777, 1780, 1783, 1786, 1789, 1792, 1796, 1799] ++
  [1802, 1805, 1808, 1811, 1814, 1818, 1821, 1824, 1827, 1830, 1833, 1836, 1840, 1843, 1846, 1849] ++
  [1852, 1855, 1858, 1861, 1865, 1868, 1871, 1874, 1877, 1880, 1883, 1887, 1890, 1893, 1896, 1899] ++
  [1902, 1905, 1909, 1912, 1915, 1918, 1921, 1924, 1927, 1930, 1934, 1937, 1940, 1943, 1946, 1949] ++
  [1952, 1956, 1959, 1962, 1965, 1968, 1971, 1974, 1978, 1981, 1984, 1987, 1990, 1993, 1996, 2000] := by decide +kernel
theorem test_map : nextWith (exec (.map 64#8) busy) (fun t => t == busy) = true := by decide

/-! ### Pulse generator (V1 to V24) -/

/-- V1, V2, V3. -/
theorem test_setPulse_low :
    nextWith (exec (.setPulse 0 999) { node 1 with cmp := Vector.replicate 9 1500 })
      (fun t => t.cmp == #v[1000, 1500, 1500, 1500, 1500, 1500, 1500, 1500, 1500]) = true := by decide
/-- V6, V7: the output registers do not move. -/
theorem test_setPulse_high :
    nextWith (exec (.setPulse 8 4294967295) (node 1))
      (fun t => t.cmp[8] == 2000 && t.live[8] == 1000 && t.cmp[7] == 1000) = true ∧
    refusedAs (exec (.setPulse 9 1500) (node 1)) (.channelOutOfRange 9) = true := by decide
/-- V22 on channel 0 beside V21 on channel 1. -/
theorem test_pwmAdvance_wraps_one_channel :
    nextWith (exec (.pwmAdvance 9#28)
        { node 1 with cmp := Vector.replicate 9 1601, cnt := #v[19990, 19991, 0, 0, 0, 0, 0, 0, 0] })
      (fun t => t.cnt[0] == 19999 && t.live[0] == 1000 && t.cnt[1] == 0 && t.live[1] == 1601 && t.now == 0) = true := by
  decide
/-- V23: three whole periods. -/
theorem test_adv_three_periods :
    nextWith (exec (.adv 60000#28) { node 1 with cmp := Vector.replicate 9 2000, cnt := Vector.replicate 9 5 })
      (fun t => t.cnt[0] == 5 && t.live[0] == 2000 && t.now == 60000) = true := by decide
/-- V18, V19: high at 999, low at 1000. -/
theorem test_adv_output :
    nextWith (exec (.adv 999#28) (node 1)) (fun t => t.pwmOut 0 && t.cnt[0] == 999) = true ∧
    nextWith (exec (.adv 1000#28) (node 1)) (fun t => !t.pwmOut 0) = true := by decide
theorem test_adv_zero_refused : refusedAs (exec (.adv 0#28) (node 1)) (.notAnOperation .advZero) = true := by decide

/-! ### Serial line (V25 to V29) -/

/-- V25's last bit. -/
theorem test_sbit_completes :
    nextWith (exec (.sbit true) { node 1 with sel := true, bitcnt := 7, sr := 0x52#8 })
      (fun t => t == { node 1 with sel := true, bitcnt := 0, sr := 0xA5#8, fifo := [0xA5#8] }) = true := by
  decide
/-- V26a. -/
theorem test_sbit_ignored : nextWith (exec (.sbit true) (node 1)) (fun t => t == node 1) = true := by decide
theorem test_csa : nextWith (exec .csa (node 1)) (fun t => t == { node 1 with sel := true }) = true := by decide
/-- V26: two bits discarded. -/
theorem test_csd :
    nextWith (exec .csd { node 1 with sel := true, bitcnt := 2, sr := 0x97#8 })
      (fun t => t == { node 1 with sr := 0x97#8 }) = true := by decide
/-- V29. -/
theorem test_rxb :
    nextWith (exec (.rxb 2#8) { node 1 with fifo := [1#8] })
      (fun t => t == { node 1 with fifo := [1#8, 2#8] }) = true := by decide
/-- V28. -/
theorem test_fifoPush_full :
    nextWith (exec (.fifoPush 9#8) { node 1 with fifo := [1, 2, 3, 4, 5, 6, 7, 8] })
      (fun t => t == { node 1 with fifo := [1, 2, 3, 4, 5, 6, 7, 8], ovr := true }) = true := by decide
/-- V25 as one serial word. -/
theorem test_serialWord :
    nextWith (exec (.serialWord 0xA5#8) { node 1 with sel := true })
      (fun t => t == { node 1 with sel := true, sr := 0xA5#8, fifo := [0xA5#8] }) = true := by decide
/-- R81 with R122: the reference FIFO takes the first eight bytes. -/
theorem test_frame :
    nextWith (exec (.frame frame36) (node 1)) (fun t => t.fifo == [1, 2, 3, 4, 5, 6, 7, 8] && t.ovr) = true := by
  decide +kernel

/-! ### Step A (V30 to V38) -/

/-- V32. -/
theorem test_drain_last_of_slice :
    nextWith (exec .drain { node 1 with fp := 17, fifo := [0x80#8], now := 7 })
      (fun t => t.fp == 18 && t.pend == #v[0, 0, 0, 0, 0, 0, 0, 0, 0x80#8] && t.fifo == [] && t.lastbyte == 7) = true := by
  decide
/-- V36. -/
theorem test_drain_surplus :
    nextWith (exec .drain { node 3 with fp := 36, fifo := [0x55#8] })
      (fun t => t == { node 3 with fp := 36 }) = true := by decide
/-- V38. -/
theorem test_drainx : nextWith (exec .drainx (node 1)) (fun t => t == { node 1 with phase := .b }) = true := by
  decide
theorem test_drain_not_selected : refusedAs (exec .drain (node 1)) (.notSelected .drain) = true := by decide

/-! ### Sync input and step B (V39 to V53) -/

/-- V39, V40. -/
theorem test_sync_edge :
    nextWith (exec (.sync true) { node 1 with synccnt := 4 })
      (fun t => t == { node 1 with synclvl := true, syncflag := true, synccnt := 5 }) = true ∧
    nextWith (exec (.sync true) { node 1 with synclvl := true }) (fun t => t == { node 1 with synclvl := true }) = true := by
  decide
/-- V41. -/
theorem test_sync_low :
    nextWith (exec (.sync false) { node 1 with synclvl := true, syncflag := true, synccnt := 5 })
      (fun t => t == { node 1 with syncflag := true, synccnt := 5 }) = true := by decide
/-- V43. -/
theorem test_edgeHandler_toggle :
    nextWith (exec .edgeHandler { node 1 with synccnt := 19 })
      (fun t => t == { node 1 with syncflag := true, status := true }) = true := by decide
/-- V44. -/
theorem test_edgeHandler_toggle_back :
    nextWith (exec .edgeHandler { node 1 with synccnt := 19, status := true })
      (fun t => t == { node 1 with syncflag := true }) = true := by decide
/-- V47. -/
theorem test_nosvc :
    nextWith (exec .nosvc { node 1 with phase := .b }) (fun t => t == { node 1 with phase := .c }) = true := by
  decide
/-- V48. -/
theorem test_svc :
    nextWith (exec .svc { node 1 with phase := .b, syncflag := true, now := 5000, pend := slice3, fp := 36 })
      (fun t => t == { node 1 with
        phase := .bapply, now := 5000, lastsync := 5000, pend := slice3, actv := slice3, fp := 36 }) = true := by
  decide
/-- V49. -/
theorem test_bapply :
    nextWith (exec .bapply { node 1 with phase := .bapply, chidx := 2, actv := slice3 })
      (fun t => t.cmp == #v[1000, 1000, 1400, 1000, 1000, 1000, 1000, 1000, 1000] && t.chidx == 3 &&
        t.phase == .bapply) = true := by decide
/-- V50. -/
theorem test_bapply_last :
    nextWith (exec .bapply { node 1 with phase := .bapply, chidx := 8, actv := slice3 })
      (fun t => t.cmp[8] == 1601 && t.chidx == 0 && t.phase == .bend) = true := by decide
/-- V51. -/
theorem test_cmdStop :
    nextWith (exec .cmdStop { node 1 with phase := .bapply, cmp := Vector.replicate 9 2000 })
      (fun t => t.cmp[0] == 1000 && t.cmp[1] == 2000 && t.chidx == 1) = true := by decide
/-- V49. -/
theorem test_cmdDrive :
    nextWith (exec (.cmdDrive 64#8) { node 1 with phase := .bapply, chidx := 2, actv := slice3 })
      (fun t => t.cmp[2] == 1400 && t.chidx == 3) = true := by decide
/-- V53: the byte in the FIFO stays. -/
theorem test_bend :
    nextWith (exec .bend { node 1 with phase := .bend, fp := 20, fifo := [7#8] })
      (fun t => t == { node 1 with phase := .c, fifo := [7#8] }) = true := by decide

/-! ### Step C (V54 to V62) -/

/-- V54: staleness 200000. -/
theorem test_wdg_not_stale :
    nextWith (exec .wdg { node 1 with phase := .c, lastsync := 1000, now := 201000 }) (fun t => t.phase == .a) = true := by
  decide
/-- V55: staleness 200001. -/
theorem test_wdg_stale :
    nextWith (exec .wdg { node 1 with phase := .c, lastsync := 1000, now := 201001 })
      (fun t => t.phase == .capply && t.chidx == 0) = true := by decide
/-- V57. -/
theorem test_capply :
    nextWith (exec .capply { node 1 with phase := .capply, cmp := Vector.replicate 9 2000 })
      (fun t => t.cmp[0] == 1000 && t.cmp[1] == 2000 && t.chidx == 1 && t.phase == .capply) = true := by decide
/-- V58. -/
theorem test_capply_last :
    nextWith (exec .capply { node 1 with phase := .capply, chidx := 8, cmp := Vector.replicate 9 2000 })
      (fun t => t.cmp[8] == 1000 && t.chidx == 0 && t.phase == .cind) = true := by decide
/-- V59, V60. -/
theorem test_cind :
    nextWith (exec .cind { node 1 with phase := .cind, now := 350000 }) (fun t => t.status && t.phase == .a) = true ∧
    nextWith (exec .cind { node 1 with phase := .cind, now := 400000 }) (fun t => !t.status) = true := by decide
/-- V61, V62. -/
theorem test_cind_boundary :
    nextWith (exec .cind { node 1 with phase := .cind, now := 299999 }) (fun t => !t.status) = true ∧
    nextWith (exec .cind { node 1 with phase := .cind, now := 300000 }) (fun t => t.status) = true := by decide

/-! ### `STEP` and `RST` (V64, V66) -/

theorem test_step : nextWith (exec .step (node 1)) (fun t => t == { node 1 with phase := .b }) = true := by decide
/-- V66 but for `NOW`, `LASTSYNC`, `LASTBYTE`, whose `T0` is free. -/
theorem test_rst :
    nextWith (exec .rst busy)
      (fun t => t.pend == Vector.replicate 9 0#8 && t.fp == 0 && !t.syncflag && t.synccnt == 0 && !t.status &&
        t.phase == .a && t.fifo == [] && t.sr == 0#8 && t.bitcnt == 0 && !t.sel && !t.synclvl && !t.ovr &&
        t.cmp == Vector.replicate 9 1000 && t.live == Vector.replicate 9 1000 && t.cnt == Vector.replicate 9 0 &&
        t.cfg == busy.cfg) = true := by decide

/-! ### Outputs (R41, R105) -/

theorem test_outputs : (node 1).miso = none ∧ (node 1).statusOut = false ∧ (node 1).commandTicks 0 = 1000 := by decide

/-! ### Witnesses: for every statement with hypotheses, a state and operands that meet all of them, each clause at a
boundary of its range. The name after `witness_` is the statement's. -/

/-- The premises of a statement about the next state of `exec`. -/
theorem exec_next_of {i : Instr} {s : State} (h : nextWith (exec i s) (fun _ => true) = true) :
    ∃ t, exec i s = .next t := (exists_of_nextWith h).imp fun _ h => h.1

theorem witness_DecodeOfEncodeIsTheOperation :
    (Instr.adv 268435455#28).wf = true ∧ (Instr.cmdDrive 1#8).wf = true ∧ (Instr.setPulse 8 0).wf = true ∧
    Instr.drain.wf = true := by decide

theorem witness_DecodedCodeIsTheCodeOfItsOperation :
    decode (.trace 0x100000FF#32) = .ok (.rxb 255#8) ∧ decode (.command 255#8) = .ok (.cmdDrive 255#8) ∧
    decode (.frame frame36.toList) = .ok (.frame frame36) := ⟨rfl, rfl, rfl⟩

theorem witness_StepRunsTheDecodedOperation :
    busy.trace = 0x20000001#32 :: [0x00000000#32, 0x00000000#32] ∧
    decode (.trace 0x20000001#32) = .ok (.sbit true) ∧ State.reset.trace = [] := ⟨rfl, rfl, rfl⟩

/-- Each clause at the ends of its range. -/
theorem witness_WordsThatSpellNothingAreRefused :
    ([0x80000000, 0xFFFFFFFF].all fun w => decide (8 ≤ w / 268435456)) = true ∧
    ([0x00000001, 0x3FFFFFFF, 0x40000001, 0x7FFFFFFF].all fun w =>
      let op := w / 268435456
      (op == 0 || op == 3 || op == 4 || op == 7) && w % 268435456 != 0) = true ∧
    ([0x10000100, 0x1FFFFFFF].all fun w => w / 268435456 == 1 && decide (256 ≤ w % 268435456)) = true ∧
    ([0x20000002, 0x5FFFFFFF].all fun w =>
      (w / 268435456 == 2 || w / 268435456 == 5) && decide (2 ≤ w % 268435456)) = true ∧
    0x60000000 / 268435456 = 6 ∧ 0x60000000 % 268435456 = 0 := by decide

theorem reference_ok (n : Fin 4) : (Config.reference n).Ok := by
  constructor
  · exact Nat.le_of_ble_eq_true rfl
  · exact Nat.le_refl 20000
  · exact Nat.le_refl 1
  · exact Nat.le_of_ble_eq_true rfl
  · show ∀ c : Chan, (Vector.replicate 9 0)[c] < 20000
    decide

theorem witness_PowerOnMeetsTheInvariant : (Config.reference 3).Ok := reference_ok 3

/-- The invariant holds of a state that is not a reset state. -/
theorem busy_inv : busy.Inv where
  cfg_ok := reference_ok 3
  fp_le := by decide
  synccnt_lt := by decide
  cmp_range := by decide
  live_range := by decide
  cnt_lt := by decide
  lastsync_le := by decide
  lastbyte_le := by decide
  chidx_zero := by decide
  fifo_le := by decide
  bitcnt_lt := by decide
  bitcnt_zero := by decide

theorem witness_EveryOperationKeepsTheInvariant :
    busy.Inv ∧ (∃ t, exec (.sbit true) busy = .next t) ∧ (∃ t, exec .drain busy = .next t) ∧
    (∃ t, exec (.setPulse 8 5000) busy = .next t) :=
  ⟨busy_inv, exec_next_of (by decide), exec_next_of (by decide), exec_next_of (by decide)⟩

theorem witness_EveryStepKeepsTheInvariant : busy.Inv ∧ ∃ t, step busy = .next t :=
  ⟨busy_inv, (exists_of_nextWith (p := fun _ => true) (by decide)).imp fun _ h => h.1⟩

theorem witness_NoOperationWritesTheConfiguration : ∃ t, exec .rst busy = .next t := exec_next_of (by decide)

/-- One byte of room in a FIFO of eight, and none. -/
theorem witness_ArrivingByteIsQueuedOrMarked :
    ({ node 1 with fifo := List.replicate 7 0#8 } : State).fifo.length < (node 1).cfg.fifoDepth ∧
    (node 1).cfg.fifoDepth ≤ ({ node 1 with fifo := List.replicate 8 0#8 } : State).fifo.length := by decide

theorem witness_SerialBitIsShiftedInWhileSelected :
    (node 1).sel = false ∧
    (let s : State := { node 1 with sel := true, bitcnt := 6 }; s.sel = true ∧ s.bitcnt ≠ 7) ∧
    (let s : State := { node 1 with sel := true, bitcnt := 7, fifo := List.replicate 7 0#8 }
     s.sel = true ∧ s.bitcnt = 7 ∧ s.fifo.length < s.cfg.fifoDepth) ∧
    (let s : State := { node 1 with sel := true, bitcnt := 7, fifo := List.replicate 8 0#8 }
     s.sel = true ∧ s.bitcnt = 7 ∧ s.cfg.fifoDepth ≤ s.fifo.length) := by decide

theorem witness_EightBitsMakeOneByte :
    (let s : State := { node 1 with sel := true }; s.sel = true ∧ s.bitcnt = 0) ∧ (node 1).sel = false := by decide

/-- The ends of the slice of node 3 and the saturated position. -/
theorem witness_DrainPopsCountsAndFilters :
    busy.phase = .a ∧ busy.fifo = 0x99#8 :: [0x55#8] ∧
    (let start := busy.cfg.nodeId.val * 9; start ≤ busy.fp ∧ busy.fp < start + 9 ∧ busy.fp < 36) ∧
    (let s : State := { busy with fp := 36 }; ¬(s.cfg.nodeId.val * 9 ≤ s.fp ∧ s.fp < s.cfg.nodeId.val * 9 + 9) ∧ ¬s.fp < 36) ∧
    (let s : State := { busy with fp := 26 }; ¬s.cfg.nodeId.val * 9 ≤ s.fp) := by decide

theorem witness_FilterStoresTheNodesOwnPositions :
    busy.phase = .a ∧ busy.fifo = 0x99#8 :: [0x55#8] ∧ busy.fp = 9 * busy.cfg.nodeId.val + (8 : Chan).val := by decide

theorem witness_DrainxAndBendMoveThePhase :
    (node 1).phase = .a ∧ (node 1).fifo = [] ∧ ({ busy with phase := .bend } : State).phase = .bend := by decide

theorem witness_EdgeHandlerFlagsCountsAndToggles :
    busy.synccnt + 1 = 20 ∧ ({ busy with synccnt := 18 } : State).synccnt + 1 ≠ 20 := by decide

theorem witness_OnlyARisingEdgeRunsTheHandler : (node 1).synclvl = false ∧ busy.synclvl = true := by decide

theorem witness_NoEdgeMeansNoService :
    let s : State := { node 1 with phase := .b }; s.phase = .b ∧ s.syncflag = false := by decide

theorem witness_ServiceTakesTheSnapshot :
    let s : State := { busy with phase := .b }; s.phase = .b ∧ s.syncflag = true := by decide

theorem witness_BapplyMapsOneLatchedByte :
    (let s : State := { node 1 with phase := .bapply, chidx := 7 }; s.phase = .bapply ∧ s.chidx.val < 8) ∧
    (let s : State := { node 1 with phase := .bapply, chidx := 8 }; s.phase = .bapply ∧ s.chidx.val = 8) := by decide

theorem witness_CommandFormsAreTheirBapply :
    (let s : State := { node 1 with phase := .bapply, actv := slice3 }; s.phase = .bapply ∧ s.actv[s.chidx] = 0#8) ∧
    (let s : State := { node 1 with phase := .bapply, actv := slice3, chidx := 6 }
     s.phase = .bapply ∧ s.actv[s.chidx] = 255#8 ∧ 255#8 ≠ 0#8 ∧
     ¬(s.phase = .bapply ∧ s.actv[s.chidx] = 0#8) ∧ ¬(254#8 ≠ 0#8 ∧ s.phase = .bapply ∧ s.actv[s.chidx] = 254#8)) ∧
    ¬((0#8 : Byte) ≠ 0#8) := by decide

theorem witness_WatchdogTriggersOnlyAboveTheTimeout :
    (let s : State := { node 1 with phase := .c, lastsync := 1000, now := 201001 }
     s.phase = .c ∧ s.now - s.lastsync > 200000) ∧
    (let s : State := { node 1 with phase := .c, lastsync := 1000, now := 201000 }
     s.phase = .c ∧ s.now - s.lastsync ≤ 200000) := by decide

theorem witness_CapplyForcesOneChannelIdle :
    (let s : State := { node 1 with phase := .capply, chidx := 7 }; s.phase = .capply ∧ s.chidx.val < 8) ∧
    (let s : State := { node 1 with phase := .capply, chidx := 8 }; s.phase = .capply ∧ s.chidx.val = 8) := by decide

theorem witness_CindDrivesTheFaultWave :
    ({ node 1 with phase := .cind, now := 300000 } : State).phase = .cind ∧ 1 ≤ (node 1).cfg.faultHalfUs := by decide

/-- Each clause at the ends of its range: 999, 1000, 2000, 2001, and channels 8 and 9. -/
theorem witness_SetPulseClampsIntoTheCommand :
    8 < 9 ∧ 999 < 1000 ∧ 1000 ≤ 1000 ∧ 2000 ≤ 2000 ∧ 2000 < 2001 ∧ 9 ≤ 9 ∧
    nextWith (exec (.setPulse 8 1000) (node 1)) (fun t => t.cmp[8] == 1000) = true ∧
    nextWith (exec (.setPulse 8 2001) (node 1)) (fun t => t.cmp[8] == 2000) = true := by decide

theorem witness_MapIsTheFormulaAndTouchesNoState :
    (0#8 : Byte) = 0#8 ∧ (1#8 : Byte) ≠ 0#8 ∧ (255#8 : Byte) ≠ 0#8 ∧
    ({ node 1 with phase := .bapply, chidx := 8 } : State).phase = .bapply := by decide

theorem witness_ClampInMapIsRedundant : (1#8 : Byte) ≠ 0#8 ∧ (255#8 : Byte) ≠ 0#8 := by decide

theorem witness_MapIsStrictlyIncreasing :
    (0#8 : Byte).toNat < (1#8 : Byte).toNat ∧ (254#8 : Byte) ≠ 0#8 ∧ (255#8 : Byte).toNat = (254#8 : Byte).toNat + 1 := by
  decide

/-- One microsecond before the wrap, and at it. -/
theorem witness_PwmAdvanceLatchesAtTheWrap :
    (let s : State := { node 1 with cnt := Vector.replicate 9 19990 }
     s.cnt[(0 : Chan)] + (9#28).toNat < s.cfg.pwmPeriodUs ∧ s.cfg.pwmPeriodUs ≤ s.cnt[(0 : Chan)] + (10#28).toNat) := by decide

theorem witness_AdvMovesTimeAndTheCounters : (1#28 : BitVec 28) ≠ 0#28 ∧ (0#28 : BitVec 28) = 0#28 := by decide

theorem witness_AdvIsAdditive :
    (1#28 : BitVec 28) ≠ 0#28 ∧ (268435454#28 : BitVec 28) ≠ 0#28 ∧
    (1#28 : BitVec 28).toNat + (268435454#28 : BitVec 28).toNat < 268435456 ∧
    ∀ c : Chan, busy.cnt[c] < busy.cfg.pwmPeriodUs := by decide

theorem witness_PulseIsHighForLiveMicroseconds :
    (node 1).cnt[(8 : Chan)] = 0 ∧ (node 1).live[(8 : Chan)] ≤ (node 1).cfg.pwmPeriodUs ∧
    (19999#28 : BitVec 28) ≠ 0#28 ∧ (19999#28 : BitVec 28).toNat < (node 1).cfg.pwmPeriodUs := by decide

/-- A state for each row of R88. -/
theorem witness_StepIsTheMicroStepOfItsRow :
    (busy.phase = .a ∧ busy.fifo ≠ []) ∧ ((node 1).phase = .a ∧ (node 1).fifo = []) ∧
    (let s : State := { busy with phase := .b }; s.phase = .b ∧ s.syncflag = true) ∧
    (let s : State := { node 1 with phase := .b }; s.phase = .b ∧ s.syncflag = false) ∧
    ({ node 1 with phase := .bapply } : State).phase = .bapply ∧ ({ node 1 with phase := .bend } : State).phase = .bend ∧
    ({ node 1 with phase := .c } : State).phase = .c ∧ ({ node 1 with phase := .capply } : State).phase = .capply ∧
    ({ node 1 with phase := .cind } : State).phase = .cind := by decide

theorem witness_ExactlyOneMicroStepRuns : MicroStep.drainx ≠ MicroStep.drain := by decide

theorem witness_EveryRunCompletes :
    (opsEdge ++ opsDrained [1#8, 2#8] ++ [Instr.csa, .sbit true, .rst, .csd, .adv 1#28]).all isTraceOp = true ∧
    (let ops : Nat → Instr := fun n => if n = 0 then .rst else .adv 1000000#28
     ops 0 = .rst ∧ ∀ n, isTraceOp (ops n) = true) := by
  refine ⟨by decide, rfl, fun n => ?_⟩
  dsimp only
  split <;> rfl

/-- The premises of the four statements about who writes what: an operation that is the writer, and one that is not. -/
theorem witness_OnlyTheSequencerWritesItsRegisters :
    isRunOp .step = true ∧ (∃ t, exec .step busy = .next t) ∧ resolvesTo .drain .step busy = true ∧
    resolvesTo .svc .step busy = false ∧ resolvesTo .bend .step busy = false ∧ resolvesTo .bapply .step busy = false ∧
    resolvesTo .capply .step busy = false ∧ isRunOp (.rxb 1#8) = true ∧ (∃ t, exec (.rxb 1#8) busy = .next t) ∧
    resolvesTo .drain (.rxb 1#8) busy = false ∧ Instr.rxb 1#8 ≠ .step :=
  ⟨rfl, exec_next_of (by decide), by decide, by decide, by decide, by decide, by decide, rfl, exec_next_of (by decide),
    by decide, by decide⟩

theorem witness_OnlyTheSerialLineWritesTheReceiver :
    isRunOp (.adv 1#28) = true ∧ (∃ t, exec (.adv 1#28) busy = .next t) ∧ (∀ b, Instr.adv 1#28 ≠ .sbit b) ∧
    (∀ v, Instr.adv 1#28 ≠ .rxb v) ∧ Instr.adv 1#28 ≠ .csa ∧ Instr.adv 1#28 ≠ .csd ∧ Instr.adv 1#28 ≠ .step ∧
    ({ busy with ovr := true } : State).ovr = true ∧ (∃ t, exec .step busy = .next t) ∧
    resolvesTo .drain .step (node 1) = false :=
  ⟨rfl, exec_next_of (by decide), by simp, by simp, by simp, by simp, by simp, rfl, exec_next_of (by decide), by decide⟩

theorem witness_SharedRegistersHaveTheirWriters :
    (∀ l, Instr.step ≠ .sync l) ∧ (∃ t, exec .step busy = .next t) ∧ resolvesTo .svc .step busy = false ∧
    resolvesTo .cind .step busy = false ∧ busy.syncflag = true ∧
    resolvesTo .svc .step { busy with phase := .b } = true ∧
    (∃ t, exec .step { busy with phase := .b } = .next t ∧ t.syncflag = false) := by
  refine ⟨by simp, exec_next_of (by decide), by decide, by decide, rfl, by decide, ?_⟩
  exact (exists_of_nextWith (p := fun t => !t.syncflag) (by decide)).imp fun t h => ⟨h.1, by simpa using h.2⟩

theorem witness_OnlyTimeMovesTheClockAndThePulses :
    isRunOp .step = true ∧ (∃ t, exec .step busy = .next t) ∧ ∀ d, Instr.step ≠ .adv d :=
  ⟨rfl, exec_next_of (by decide), by simp⟩

/-- Nine bytes of node 0's slice and one more. -/
def tenDrained : List Instr := opsDrained [1, 2, 3, 4, 5, 6, 7, 8, 9, 10]

theorem witness_PoppedBytesFillTheSliceByPosition :
    tenDrained.all isRunOp = true ∧ everyOp (resolvesElse .bend) tenDrained (node 0) = true ∧
    (node 0).fp = 0 ∧ ∃ t, runOps tenDrained (node 0) = .next t :=
  ⟨by decide, by decide, rfl, (exists_of_nextWith (p := fun _ => true) (by decide)).imp fun _ h => h.1⟩

theorem witness_FifoKeepsTheOrderOfArrival :
    (opsFill 8 1#8 ++ [Instr.step, .step]).all isRunOp = true ∧
    ∃ t, runOps (opsFill 8 1#8 ++ [.step, .step]) (node 0) = .next t ∧ t.ovr = false := by
  refine ⟨by decide, ?_⟩
  exact (exists_of_nextWith (p := fun t => !t.ovr) (by decide)).imp fun t h => ⟨h.1, by simpa using h.2⟩

/-- A whole frame, its edge, and the end of step A: the last node's slice reaches the last byte. -/
def frameRun : List Instr := opsDrained frame36.toList ++ opsEdge ++ [.step]

theorem witness_SnapshotHoldsTheNodesSliceOfTheFrame :
    frameRun.all isRunOp = true ∧ everyOp (resolvesElse .bend) frameRun (node 3) = true ∧ (node 3).fp = 0 ∧
    ∃ t, runOps frameRun (node 3) = .next t ∧ t.selected = .svc ∧ t.fp = 36 ∧ t.ovr = false := by
  refine ⟨by decide +kernel, by decide +kernel, rfl, ?_⟩
  have run : nextWith (runOps frameRun (node 3)) (fun t => t.selected == .svc && t.fp == 36 && !t.ovr) = true := by
    decide +kernel
  refine (exists_of_nextWith run).imp fun t h => ?_
  simp only [Bool.and_eq_true, beq_iff_eq, Bool.not_eq_true'] at h
  exact ⟨h.1, h.2.1.1, h.2.1.2, h.2.2⟩

/-- Other agents act between the nine steps. -/
theorem witness_NinePulsesComeFromOneSnapshot :
    let ops : List Instr := List.replicate 4 .step ++ [.rxb 7#8, .sync true, .adv 20000#28] ++ List.replicate 5 .step
    ({ busy with phase := .b } : State).selected = .svc ∧ ops.all isRunOp = true ∧ ops.count .step = 9 := by decide

theorem witness_StaleNodeGoesIdleAndStaysIdle :
    let s : State := { busy with phase := .c, syncflag := false }
    let ops : List Instr := [.rxb 7#8] ++ List.replicate 11 .step
    s.phase = .c ∧ s.stale = true ∧ ops.all isRunOp = true ∧ everyOp (resolvesElse .svc) ops s = true ∧
    10 ≤ ops.count .step := by decide

theorem witness_ServicedEdgeRealignsTheNextFrame :
    let s : State := { node 3 with fp := 20, syncflag := true, cfg := { (node 3).cfg with fifoDepth := 1 } }
    s.phase = .a ∧ s.fifo = [] ∧ s.synclvl = false ∧ 1 ≤ s.cfg.fifoDepth := by decide

theorem witness_EdgesCollapseButAreCounted :
    ({ node 1 with synccnt := 19 } : State).synclvl = false ∧ ({ node 1 with synccnt := 19 } : State).synccnt < 20 := by
  decide

theorem witness_ByteStreamStarvesTheLoop :
    let s : State := { node 1 with fifo := List.replicate 7 1#8, syncflag := true, now := 500000 }
    s.phase = .a ∧ s.fifo.length < s.cfg.fifoDepth := by decide

theorem witness_IterationLengthIsFixed : busy.phase = .a := rfl

/-- The edge and the staleness in one iteration. -/
theorem witness_FlaggedEdgeWinsOverTheWatchdog :
    let s : State := { busy with fifo := [] }
    s.phase = .a ∧ s.fifo = [] ∧ s.syncflag = true ∧ s.stale = true := by decide

theorem witness_SafeStateWritesCommandsAndStatusAlone :
    (let s : State := { busy with fifo := [], syncflag := false }
     s.phase = .a ∧ s.fifo = [] ∧ s.syncflag = false ∧ s.stale = true) ∧
    (let s : State := { busy with fifo := [], syncflag := false, lastsync := 300000 }
     s.phase = .a ∧ s.fifo = [] ∧ s.syncflag = false ∧ s.stale = false) := by decide

theorem witness_FourNodesTogetherHoldTheFrame :
    let n := Nodes.powerOn (fun _ => Config.reference 0) (fun k => k.val)
    (∀ k : Fin 4, n.node[k].cfg.nodeId = k ∧ n.node[k].phase = .a ∧ n.node[k].fifo = [] ∧ n.node[k].fp = 0 ∧
      1 ≤ n.node[k].cfg.fifoDepth) ∧
    (3 : Fin 4).val = nodeOfPosition (35 : Fin 36).val ∧ (8 : Chan).val = channelOfPosition (35 : Fin 36).val := by decide

/-- The same run with other bytes, from states that differ in their bytes. -/
theorem witness_DataNeverSteersControl :
    let ops : List (Instr × Instr) := [(.rxb 0#8, .rxb 255#8), (.sbit true, .sbit false), (.step, .step)]
    (ops.all fun p => isRunOp p.1 && sameKind p.1 p.2) = true ∧
    SameControl busy { busy with pend := Vector.replicate 9 0#8, sr := 0#8, fifo := [1#8, 2#8] } ∧
    (∃ t, runOps (ops.map Prod.fst) busy = .next t) ∧
    (∃ t, runOps (ops.map Prod.snd) { busy with pend := Vector.replicate 9 0#8, sr := 0#8, fifo := [1#8, 2#8] } = .next t) := by
  refine ⟨by decide, ?_, ?_, ?_⟩
  · constructor <;> rfl
  · exact (exists_of_nextWith (p := fun _ => true) (by decide)).imp fun _ h => h.1
  · exact (exists_of_nextWith (p := fun _ => true) (by decide)).imp fun _ h => h.1

/-- Every step exactly `bound` after the one before. -/
theorem witness_SafeStateTimeIsBoundedBySteps :
    let s : State := { busy with phase := .c, syncflag := false }
    let ops : List Instr := (List.replicate 10 [.adv 100#28, .step]).flatten ++ [.adv 100#28]
    s.phase = .c ∧ s.stale = true ∧ ops.all isRunOp = true ∧ stepGapsWithin 100 0 ops = true ∧
    everyOp (resolvesElse .svc) ops s = true ∧ (∃ t, runOps ops s = .next t) ∧ ops.count .step = 10 := by
  refine ⟨rfl, by decide, by decide, by decide, by decide, ?_, by decide⟩
  exact (exists_of_nextWith (p := fun _ => true) (by decide)).imp fun _ h => h.1

/-- Three of the nine channels written, the fourth next. -/
theorem witness_EveryStepKeepsTheWrittenCommands :
    let s : State := { node 1 with
      phase := .bapply, chidx := 3, actv := slice3, cmp := #v[1000, 1203, 1400, 1000, 1000, 1000, 1000, 1000, 1000] }
    s.CommandsFollowPhase ∧ ∃ t, step s = .next t := by
  refine ⟨⟨by decide, by decide, by decide, by decide⟩, ?_⟩
  exact (exists_of_nextWith (p := fun _ => true) (by decide)).imp fun _ h => h.1

/-- Three turns of the sequencer after a power-on and 200001 microseconds, and turns of it for ever. -/
def fairOps (n : Nat) : Instr := if n = 0 then .rst else if n = 1 then .adv 200001#28 else .step

def fairStates : Nat → State
  | 0 => node 1
  | n + 1 => match exec (fairOps n) (fairStates n) with
    | .next t => t
    | .fault _ => fairStates n
    | .refused _ => fairStates n

theorem fairOps_infiniteRun : InfiniteRun fairOps fairStates where
  starts := rfl
  traceOps n := by unfold fairOps; split <;> [rfl; (split <;> rfl)]
  follows n := by
    have h : ∃ t, exec (fairOps n) (fairStates n) = .next t := by
      unfold fairOps; split <;> [exact ⟨_, rfl⟩; (split <;> exact ⟨_, rfl⟩)]
    obtain ⟨t, h⟩ := h
    rw [h, fairStates, h]

theorem fairStates_syncflag (n : Nat) : (fairStates (n + 1)).syncflag = false := by
  induction n with
  | zero => rfl
  | succ n ih =>
    have h := fairOps_infiniteRun.follows (n + 1)
    by_cases hn : n = 0
    · subst hn; rfl
    · rw [show fairOps (n + 1) = .step by simp [fairOps, hn]] at h
      simp only [exec_step, Host.Outcome.next.injEq] at h
      rw [← h]
      unfold sequencerStep
      cases (fairStates (n + 1)).selected <;>
        simp [microEffect, applyPulse, forceIdle, nextChannel, setPulse, enterPhase, takeSnapshot, endService,
          watchdogCheck, driveFaultWave, ih]

/-- The node is found stale at operation 4, and no edge ever comes. -/
theorem witness_FairRunReachesTheSafeState :
    InfiniteRun fairOps fairStates ∧ stepRecurs fairOps ∧ (fairStates 4).phase = .c ∧ (fairStates 4).stale = true ∧
    ∀ k, 4 ≤ k → fairOps k ≠ .rst ∧ resolvesElse .svc (fairOps k) (fairStates k) = true := by
  refine ⟨fairOps_infiniteRun, fun n => ⟨n + 2, by omega, by simp [fairOps]⟩, rfl, ?_, fun k hk => ?_⟩
  · have h2 : fairStates 2 = advance 200001 (powerCycle (node 1)) := rfl
    have h3 : fairStates 3 = { fairStates 2 with phase := .b } :=
      sequencerStep_drainx (s := fairStates 2) (by rfl) (by rfl)
    have h4 : fairStates 4 = { fairStates 3 with phase := .c } :=
      sequencerStep_nosvc (s := fairStates 3) (by rfl) (by rfl)
    rw [h4, h3, h2]
    simp [State.stale, advance]
  · obtain ⟨j, rfl⟩ : ∃ j, k = j + 1 := ⟨k - 1, by omega⟩
    have hs : (fairStates (j + 1)).selected ≠ .svc := by
      rw [ne_eq, selected_eq_svc, fairStates_syncflag]
      simp
    have hi : fairOps (j + 1) = .step := by simp [fairOps]; omega
    simp [hi, resolvesElse, resolvesTo, hs]

/-! ### Pseudo-operations (R93) -/

theorem test_seq_below_256 :
    countingBytes 2 254 = some [254#8, 255#8] ∧ countingBytes 2 255 = none ∧
    opsSeq 1 7 = some [.rxb 7#8] ∧ opsSeqD 1 7 (node 1) = some [.rxb 7#8, .step] ∧
    opsSeqD 2 255 (node 1) = none := by decide

/-- Legal only in phase A, and then the phase stays A and the FIFO is empty (R93). -/
theorem test_drained_forms_need_phase_a :
    opsFillD 1 7#8 { node 1 with phase := .b } = none ∧ opsSeqD 1 7 { node 1 with phase := .c } = none ∧
    (opsFillD 3 7#8 (node 1)).isSome = true ∧
    ((opsFillD 3 7#8 (node 1)).any fun ops =>
      nextWith (runOps ops (node 1)) fun t => t.phase == .a && t.fifo == [] && t.fp == 3) = true := by decide
theorem test_spin_zero_refused : spin 0#28 1 (node 1) = none ∧ (spin 1#28 1 (node 1)).isSome = true := by decide

/-! ### Four nodes (R209, D27) -/

/-- One microsecond passes for all four. -/
theorem test_nodes_shared_adv :
    (NodesOp.shared (.adv 1#28)).ok = true ∧ (NodesOp.shared (.adv 0#28)).ok = false ∧
    (NodesOp.own 2 (.adv 1#28)).sharedTime = false ∧
    nextWith (nodesExec (.shared (.adv 1#28)) (Nodes.powerOn (fun _ => Config.reference 0) (fun k => k.val)))
      (fun n => n.node[0].now == 1 && n.node[1].now == 2 && n.node[2].now == 3 && n.node[3].now == 4) = true := by decide

/-! ### The safe state (R12): stale with idle commands is not enough -/

/-- After `ADV 200001` from power-on the node is stale and idle, and no fault pattern has been driven; thirteen steps
later it has. -/
theorem test_safe_state_needs_the_watchdog :
    faultDriven false [.adv 200001#28] (node 1) = false ∧
    faultDriven false (.adv 200001#28 :: List.replicate 12 .step) (node 1) = false ∧
    faultDriven false (.adv 200001#28 :: List.replicate 13 .step) (node 1) = true := by decide

/-! ### The host's duties (R224 to R241): each is kept by one operation and broken by another -/

/-- H1: the frame's last byte comes between `DRAINX` and the edge and is still in the FIFO at `SVC`; so too when it is the
37th byte. -/
theorem test_settle_time_broken :
    dutySettle 0 ([Instr.step, .rxb 36#8] ++ opsEdge ++ [.step]) { node 3 with fp := 35 } = false ∧
    dutySettle 0 ([Instr.step, .rxb 37#8] ++ opsEdge ++ [.step]) { node 3 with fp := 36 } = false := by decide

/-- Kept: program 2's short frame, popped before its edge; a last byte popped between the edge and `SVC`; a byte of the
next frame that waits in the FIFO (H3). -/
theorem test_settle_time_kept :
    dutySettle 0 ([Instr.rxb 20#8, .step] ++ opsEdge ++ List.replicate 13 .step) { node 1 with fp := 19 } = true ∧
    dutySettle 0 ([.rxb 36#8] ++ opsEdge ++ [.step, .step, .step]) { node 3 with fp := 35 } = true ∧
    dutySettle 0 (opsEdge ++ [.step, .rxb 101#8, .step]) { node 0 with fp := 36 } = true := by decide

/-- With steps at most 10 microseconds apart, a gap of 11 before the edge is enough and one of 10 is not. -/
theorem test_gap_before_edge :
    gapBeforeEdge 10 none ([Instr.rxb 36#8, .adv 11#28] ++ opsEdge) (node 3) = true ∧
    gapBeforeEdge 10 none ([Instr.rxb 36#8, .adv 10#28] ++ opsEdge) (node 3) = false ∧
    gapBeforeEdge 10 none opsEdge (node 3) = true := by decide

/-- The run of `dutySettle_of_gapBeforeEdge`: a byte, the gap with a `STEP` in it, the edge and its servicing. -/
theorem witness_dutySettle_of_gapBeforeEdge :
    let ops : List Instr := [.rxb 36#8, .adv 8#28, .step, .adv 3#28] ++ opsEdge ++ [.step, .step]
    ops.all isTraceOp = true ∧ Settled 0 0 none (node 3) ∧ stepGapsWithin 10 0 ops = true ∧
    gapBeforeEdge 10 none ops (node 3) = true :=
  ⟨by decide, ⟨by decide, by decide, by decide⟩, by decide, by decide⟩

/-- H2: the next frame's first byte is popped before the servicing; after a short frame too, also past a collapsed edge,
and by a byte that the edge cuts. -/
theorem test_quiet_time_broken :
    dutyQuiet 0 (opsEdge ++ [.rxb 101#8, .step]) { node 0 with fp := 36 } = false ∧
    dutyQuiet 0 (opsEdge ++ [.rxb 101#8, .step]) { node 0 with fp := 20 } = false ∧
    dutyQuiet 0 (opsEdge ++ [.rxb 101#8] ++ opsEdge ++ [.step]) { node 0 with fp := 20 } = false ∧
    dutyQuiet 0 (opsEdge ++ [.sbit true, .step]) { node 0 with fp := 20, sel := true, bitcnt := 7 } = false := by decide

/-- Kept: scenario 6's surplus byte popped before the edge; a byte that came before the edge, popped after it; H3, whose
byte waits in the FIFO and is popped after `BEND`. -/
theorem test_quiet_time_kept :
    dutyQuiet 0 ([Instr.rxb 37#8, .step] ++ opsEdge ++ List.replicate 13 .step) { node 1 with fp := 36 } = true ∧
    dutyQuiet 0 ([.rxb 36#8] ++ opsEdge ++ [.step]) { node 1 with fp := 35 } = true ∧
    dutyQuiet 0 (opsEdge ++ [.step, .rxb 101#8] ++ List.replicate 13 .step) { node 0 with fp := 36 } = true := by decide

/-- H2's host sends in the quiet time, H3's does not. -/
theorem test_sends_quiet :
    sendsQuiet (.rxb 101#8) { node 0 with syncflag := true } = false ∧
    sendsQuiet (.rxb 101#8) { node 0 with syncflag := true, phase := .b } = true ∧
    sendsQuiet (.rxb 101#8) (node 0) = true := by decide

/-- H6 breaks the byte rate; the last two are R241 and U2. -/
theorem test_duties :
    dutyRate (.rxb 9#8) { node 1 with fifo := List.replicate 8 0#8 } = false ∧ dutyRate (.rxb 9#8) (node 1) = true ∧
    dutySpacing (.sync true) { node 1 with syncflag := true } = false ∧ dutySpacing (.sync true) (node 1) = true ∧
    edgeBetweenBytes (.sync true) { node 1 with bitcnt := 3 } = false ∧ edgeBetweenBytes (.sync true) (node 1) = true ∧
    syncHighLongEnough 1 none (opsPulse 1#28) = true ∧ syncHighLongEnough 1 none opsEdge = false := by decide

/-- Log 32: the high time before a power cycle does not count for the pulse after it, nor does the age of a byte; R222
asks that the input is low there. -/
theorem test_duties_over_a_power_cycle :
    syncHighLongEnough 1 none ([Instr.sync true, .adv 5#28, .rst] ++ opsEdge) = false ∧
    syncHighLongEnough 1 none ([Instr.sync true, .rst] ++ opsPulse 1#28) = true ∧
    gapBeforeEdge 10 none ([Instr.rxb 1#8, .rst] ++ opsEdge) (node 1) = true ∧
    syncLowAtPowerOn .rst { node 1 with synclvl := true } = false ∧ syncLowAtPowerOn .rst (node 1) = true := by decide

end Sys2Proof.Tests
end

/-! PROOFS. The value mapper (R110, R111): `Map` on each of the two command forms, its bounds, and the `BAPPLY` that
calls it. -/

namespace Sys2Proof

/-! ### The command forms (R82) -/

@[simp] theorem decode_command_zero : decode (.command 0#8) = .ok .cmdStop := rfl

theorem decode_command_of_ne_zero {v : Byte} (hv : v ≠ 0#8) : decode (.command v) = .ok (.cmdDrive v) := by
  simp [decode, decodeCommand, hv]

namespace Machine

/-! ### `Map` on each form -/

@[simp] theorem mapUs_zero : mapUs 0#8 = 1000 := rfl

/-- The formula of R110, with its clamp. -/
theorem mapUs_of_ne_zero {v : Byte} (hv : v ≠ 0#8) : mapUs v = min (1200 + v.toNat * 800 / 255) 2000 :=
  if_neg hv

/-- The bound R111 turns on: a byte is at most 255. -/
theorem scaledByte_le (v : Byte) : v.toNat * 800 / 255 ≤ 800 := by
  have hlt : v.toNat < 256 := v.isLt
  omega

theorem mapUs_eq_unclamped {v : Byte} (hv : v ≠ 0#8) : mapUs v = 1200 + v.toNat * 800 / 255 := by
  have hle : 1200 + v.toNat * 800 / 255 ≤ 2000 := Nat.add_le_add_left (scaledByte_le v) 1200
  rw [mapUs_of_ne_zero hv, min_eq_left hle]

/-- The least active width is that of the byte 1, above `MIN_ACTIVE_US`. -/
theorem le_mapUs_of_ne_zero {v : Byte} (hv : v ≠ 0#8) : 1203 ≤ mapUs v := by
  have hpos : 0 < v.toNat := Nat.pos_of_ne_zero fun h => hv (BitVec.eq_of_toNat_eq h)
  rw [mapUs_eq_unclamped hv]
  omega

/-- No byte maps between the idle width and the width of the byte 1. -/
theorem mapUs_gap (v : Byte) : ¬(1001 ≤ mapUs v ∧ mapUs v ≤ 1202) := by
  by_cases hv : v = 0#8
  · simp [hv]
  · have hge := le_mapUs_of_ne_zero hv
    omega

/-! ### The caller of `Map` -/

/-- Named where the state selects it, `BAPPLY` is the sequencer's step. -/
theorem exec_bapply {s : State} (hp : s.phase = .bapply) : exec .bapply s = .next (sequencerStep s) := by
  have hs : s.selected = .bapply := selected_eq_bapply.2 hp
  exact (exec_microStep .bapply s).trans (runSelected_next.2 ⟨hs, by rw [sequencerStep, hs]⟩)

/-- `BAPPLY` commands the width of the byte latched for its channel. -/
theorem exec_bapply_cmp {s : State} (hp : s.phase = .bapply) :
    ∃ t, exec .bapply s = .next t ∧ t.cmp[s.chidx] = mapUs s.actv[s.chidx] :=
  ⟨_, exec_bapply hp, by simp [sequencerStep_bapply hp]⟩

/-! ### The statements -/

/-- Settles O31, from `Map`'s equation on each command form, the gap above the idle width and the step of `BAPPLY`. -/
theorem mapIsTheFormulaAndTouchesNoState : Obligations.MapIsTheFormulaAndTouchesNoState := by
  intro v s
  refine ⟨exec_map v s, ?stop, ?drive, exec_bapply_cmp, by decide, by decide, by decide, mapUs_gap v⟩
  case stop =>
    rintro rfl
    exact ⟨mapUs_zero, decode_command_zero⟩
  case drive =>
    intro hv
    exact ⟨mapUs_of_ne_zero hv, mapUs_of_ne_zero hv, decode_command_of_ne_zero hv⟩

/-- Settles O32: the scaled byte is at most 800, so the sum is at most `MAX_US`. -/
theorem clampInMapIsRedundant : Obligations.ClampInMapIsRedundant := fun v hv =>
  ⟨scaledByte_le v, mapUs_eq_unclamped hv⟩

end Machine

end Sys2Proof

/-! PROOFS. Step A (R124, R125): a named micro-step is the sequencer's step where it is selected, and what `DRAIN` stores
of the byte it pops. -/

namespace Sys2Proof.Machine

/-! ### Micro-steps by name -/

/-- Named where the state selects it, a micro-step is the sequencer's step (R88). -/
theorem exec_instr_of_selected {m : MicroStep} {s : State} (h : s.selected = m) :
    exec m.instr s = .next (sequencerStep s) :=
  (exec_microStep m s).trans (runSelected_next.2 ⟨h, by rw [sequencerStep, h]⟩)

/-- Named in phase A with a byte to pop, `DRAIN` is the sequencer's step. -/
theorem exec_drain {s : State} {b : Byte} {rest : List Byte} (hp : s.phase = .a) (hf : s.fifo = b :: rest) :
    exec .drain s = .next (sequencerStep s) :=
  exec_instr_of_selected (m := .drain) (selected_eq_drain.2 ⟨hp, by simp [hf]⟩)

/-! ### The position filter (R86) -/

theorem myStart_eq (g : Config) : myStart g = 9 * g.nodeId.val := Nat.mul_comm _ 9

theorem myEnd_eq (g : Config) : myEnd g = 9 * g.nodeId.val + 9 := congrArg (· + 9) (myStart_eq g)

/-- A position of the node's slice is stored at its distance from the slice's start. -/
theorem storePending_of_mem {g : Config} {idx : Nat} (h : g.nodeId.val * 9 ≤ idx ∧ idx < g.nodeId.val * 9 + 9)
    (b : Byte) (p : Nine Byte) : storePending g idx b p = p.set (idx - g.nodeId.val * 9) b (by omega) := by
  have hi : sliceOffset g idx = some ⟨idx - g.nodeId.val * 9, by omega⟩ :=
    (sliceOffset_eq_some g idx _).2 (by simp only; omega)
  simp only [storePending, hi]

/-- Any other position leaves `PEND` alone. -/
theorem storePending_of_not_mem {g : Config} {idx : Nat}
    (h : ¬(g.nodeId.val * 9 ≤ idx ∧ idx < g.nodeId.val * 9 + 9)) (b : Byte) (p : Nine Byte) :
    storePending g idx b p = p := by
  have hi : sliceOffset g idx = none := by
    rw [Option.eq_none_iff_forall_ne_some]
    intro i hs
    have hidx := (sliceOffset_eq_some g idx i).1 hs
    omega
  simp only [storePending, hi]

/-- The filter as one range test: step 5 of R124. -/
theorem storePending_eq (g : Config) (idx : Nat) (b : Byte) (p : Nine Byte) :
    storePending g idx b p =
      if h : g.nodeId.val * 9 ≤ idx ∧ idx < g.nodeId.val * 9 + 9 then
        p.set (idx - g.nodeId.val * 9) b (by omega)
      else p := by
  split
  · next h => exact storePending_of_mem h b p
  · next h => exact storePending_of_not_mem h b p

/-! ### The statements -/

/-- Settles O18, from the sequencer's step on a waiting byte, with the filter as one range test. -/
theorem drainPopsCountsAndFilters : Obligations.DrainPopsCountsAndFilters := by
  intro s b rest hp hf
  refine ⟨_, exec_drain hp hf, exec_step s, rfl, ?_⟩
  rw [sequencerStep_drain hp hf, storePending_eq]
  rfl

/-- Settles O19: `PEND` after the step is the filtered one, whose elements are known one by one. -/
theorem filterStoresTheNodesOwnPositions : Obligations.FilterStoresTheNodesOwnPositions := by
  intro s b rest hp hf
  refine ⟨_, exec_drain hp hf, myStart_eq s.cfg, myEnd_eq s.cfg, fun i => ?_⟩
  rw [sequencerStep_drain hp hf, Nat.mul_comm 9]
  exact storePending_get s.cfg s.fp b s.pend i

end Sys2Proof.Machine

/-! PROOFS. The entry of step B (R142, R143): with the flag clear the sequencer passes to step C, with the flag set it
latches the pending slice. -/

namespace Sys2Proof.Machine

/-! ### Selection in phase B -/

theorem selected_eq_nosvc {s : State} : s.selected = .nosvc ↔ s.phase = .b ∧ s.syncflag = false := by
  unfold State.selected
  cases s.phase <;> cases s.fifo <;> cases s.syncflag <;> simp

/-! ### The statements -/

/-- Settles O23: named where it is selected, `NOSVC` is the sequencer's step, which writes the phase alone. -/
theorem noEdgeMeansNoService : Obligations.NoEdgeMeansNoService := by
  intro s hp hf
  have hnosvc : exec .nosvc s = .next (sequencerStep s) :=
    exec_instr_of_selected (m := .nosvc) (selected_eq_nosvc.2 ⟨hp, hf⟩)
  rw [hnosvc, exec_step, sequencerStep_nosvc hp hf]
  exact ⟨rfl, rfl⟩

/-- Settles O24: named where it is selected, `SVC` is the sequencer's step, which takes the snapshot. -/
theorem serviceTakesTheSnapshot : Obligations.ServiceTakesTheSnapshot := by
  intro s hp hf
  have hsvc : exec .svc s = .next (sequencerStep s) :=
    exec_instr_of_selected (m := .svc) (selected_eq_svc.2 ⟨hp, hf⟩)
  exact ⟨sequencerStep s, sequencerStep_svc hp hf, hsvc, exec_step s⟩

end Sys2Proof.Machine

/-! PROOFS. The watchdog check (R156): what it does to a stale node and to a fresh one, and where the timeout lies. -/

namespace Sys2Proof.Machine

/-! ### Staleness (R155) -/

/-- Stale is strictly above the timeout. -/
theorem stale_eq_true {s : State} : s.stale = true ↔ s.now - s.lastsync > 200000 := decide_eq_true_iff

theorem stale_eq_false {s : State} : s.stale = false ↔ s.now - s.lastsync ≤ 200000 := by
  rw [← Bool.not_eq_true, stale_eq_true, not_lt]

/-! ### The sequencer in phase C -/

theorem selected_eq_wdg {s : State} : s.selected = .wdg ↔ s.phase = .c := by
  unfold State.selected
  cases s.phase <;> cases s.fifo <;> cases s.syncflag <;> simp

theorem sequencerStep_wdg_of_stale {s : State} (hp : s.phase = .c) (hs : s.stale = true) :
    sequencerStep s = { s with chidx := 0, phase := .capply } := by
  simp [sequencerStep_wdg hp, hs]

theorem sequencerStep_wdg_of_fresh {s : State} (hp : s.phase = .c) (hs : s.stale = false) :
    sequencerStep s = { s with phase := .a } := by
  simp [sequencerStep_wdg hp, hs]

/-! ### The statement -/

/-- Settles O27: named where it is selected, `WDG` is the sequencer's step, which branches on staleness. -/
theorem watchdogTriggersOnlyAboveTheTimeout : Obligations.WatchdogTriggersOnlyAboveTheTimeout := by
  intro s hp
  have hwdg : exec .wdg s = .next (sequencerStep s) :=
    exec_instr_of_selected (m := .wdg) (selected_eq_wdg.2 hp)
  rw [hwdg, exec_step]
  refine ⟨fun habove => ?stale, fun hwithin => ?fresh⟩
  case stale =>
    rw [sequencerStep_wdg_of_stale hp (stale_eq_true.2 habove)]
    exact ⟨rfl, rfl⟩
  case fresh =>
    rw [sequencerStep_wdg_of_fresh hp (stale_eq_false.2 hwithin)]
    exact ⟨rfl, rfl⟩

end Sys2Proof.Machine

/-! PROOFS. The codes (R80 to R84, R90): a code decodes to an operation exactly where the operation is well formed,
spells itself and encodes to that code; the rest follows row by row. -/

namespace Sys2Proof

/-! ### Operand fields of an argument -/

@[simp] theorem byteArg_high (v : Byte) : (v.setWidth 28).extractLsb' 8 20 = 0#20 := by
  rw [high20_eq_zero, byteArg_toNat]
  exact v.isLt

@[simp] theorem byteArg_low (v : Byte) : (v.setWidth 28).extractLsb' 0 8 = v := by
  apply BitVec.eq_of_toNat_eq
  rw [low8_toNat, byteArg_toNat]
  exact Nat.mod_eq_of_lt v.isLt

theorem byteArg_of_high {a : BitVec 28} (h : a.extractLsb' 8 20 = 0#20) : (a.extractLsb' 0 8).setWidth 28 = a := by
  apply BitVec.eq_of_toNat_eq
  rw [byteArg_toNat, low8_toNat]
  exact Nat.mod_eq_of_lt ((high20_eq_zero a).1 h)

theorem bitArg_high (b : Bool) : ((BitVec.ofBool b).setWidth 28).extractLsb' 1 27 = 0#27 := by
  rw [high27_eq_zero, bitArg_toNat]
  exact b.toNat_lt

theorem bitArg_of_high {a : BitVec 28} (h : a.extractLsb' 1 27 = 0#27) :
    (BitVec.ofBool (a.getLsbD 0)).setWidth 28 = a := by
  apply BitVec.eq_of_toNat_eq
  rw [bitArg_toNat, bit0_toNat]
  exact Nat.mod_eq_of_lt ((high27_eq_zero a).1 h)

/-! ### Each format's code of an operation -/

/-- The operation `i` has the code `code`, and is what that code spells. -/
def CodeOf (code : Code) (i : Instr) : Prop := i.wf = true ∧ i.spelled = i ∧ encode i = some code

theorem decodeBare_eq_ok {i j : Instr} {arg : BitVec 28} : decodeBare j arg = .ok i ↔ j = i ∧ arg = 0#28 := by
  unfold decodeBare
  split <;> rename_i h <;> simp [h]

/-- By the value of `op`, in the order of R84. -/
theorem codeOf_of_decodeWord {w : TraceWord} {i : Instr} (h : decodeWord w = .ok i) : CodeOf (.trace w) i := by
  rw [← traceWord_of_fields w] at h ⊢
  generalize opOf w = op, argOf w = arg at h ⊢
  simp only [decodeWord, opOf_traceWord, argOf_traceWord] at h
  have hop {n : Nat} (hn : op.toNat = n) : op = BitVec.ofNat 4 n := by
    rw [← hn, BitVec.ofNat_toNat, BitVec.setWidth_eq]
  split at h
  case h_1 hn | h_4 hn | h_5 hn | h_8 hn =>
    obtain ⟨rfl, rfl⟩ := decodeBare_eq_ok.1 h
    exact hop hn ▸ ⟨rfl, rfl, rfl⟩
  case h_2 hn =>
    split at h <;> cases h
    next hz => exact hop hn ▸ ⟨rfl, rfl, by rw [encode, byteArg_of_high hz]⟩
  case h_3 hn | h_6 hn =>
    split at h <;> cases h
    next hz => exact hop hn ▸ ⟨rfl, rfl, by rw [encode, bitArg_of_high hz]⟩
  case h_7 hn =>
    split at h <;> cases h
    next hz => exact hop hn ▸ ⟨by simpa [Instr.wf] using hz, rfl, rfl⟩
  case h_9 => cases h

theorem codeOf_of_decode {code : Code} {i : Instr} (h : decode code = .ok i) : CodeOf code i := by
  cases code with
  | trace w => exact codeOf_of_decodeWord h
  | command v =>
    by_cases hv : v = 0#8
    · subst hv
      cases h
      exact ⟨rfl, rfl, rfl⟩
    · rw [decode_command_of_ne_zero hv] at h
      cases h
      exact ⟨by simpa [Instr.wf] using hv, rfl, rfl⟩
  | serial samples =>
    simp only [decode, decodeSerial] at h
    split at h <;> cases h
    next hlen => exact ⟨rfl, rfl, by rw [encode, byteBits_of_samples samples hlen]⟩
  | frame bytes =>
    simp only [decode, decodeFrame] at h
    split at h <;> cases h
    exact ⟨rfl, rfl, by simp [encode]⟩

/-! ### The code of each operation decodes -/

/-- The new bit enters at bit 0, and every other bit is the one below it. -/
theorem shiftIn_getLsbD (sr : Byte) (b : Bool) (k : Nat) :
    (shiftIn sr b).getLsbD k = if k = 0 then b else decide (k < 8) && sr.getLsbD (k - 1) := by
  have happend : (shiftIn sr b).getLsbD k =
      if k < 1 then (BitVec.ofBool b).getLsbD k else (sr.extractLsb' 0 7).getLsbD (k - 1) := BitVec.getLsbD_append
  rw [happend]
  by_cases hk : k = 0
  · simp [hk]
  · simp only [hk, if_false, Nat.lt_one_iff, BitVec.getLsbD_extractLsb', Nat.zero_add]
    congr 1
    simp only [decide_eq_decide]
    omega

/-- The eight bits of a byte shifted in spell it, whatever the register held (R80, R85). -/
theorem shiftIn_byteBits (sr v : Byte) : (byteBits v).foldl shiftIn sr = v := by
  apply BitVec.eq_of_getLsbD_eq
  intro k hk
  simp only [byteBits, List.foldl_cons, List.foldl_nil, shiftIn_getLsbD]
  interval_cases k <;> rfl

theorem decode_serial_byteBits (v : Byte) : decode (.serial (byteBits v)) = .ok (.serialWord v) := by
  have hlen : (byteBits v).length = 8 := rfl
  simp only [decode, decodeSerial, hlen, if_true, shiftIn_byteBits]

theorem decode_frame_toList (bytes : Vector Byte 36) : decode (.frame bytes.toList) = .ok (.frame bytes) := by
  simp only [decode, decodeFrame, Vector.length_toList, dite_true]
  rfl

theorem decode_of_codeOf {code : Code} {i : Instr} (h : CodeOf code i) : decode code = .ok i := by
  obtain ⟨hwf, hspell, henc⟩ := h
  cases i <;> cases henc
  case rxb v => simp [decode, decodeWord]
  case sbit | sync => simp [decode, decodeWord, bitArg_high]
  case adv d => simpa [decode, decodeWord, Instr.wf] using hwf
  case cmdDrive v => exact decode_command_of_ne_zero (by simpa [Instr.wf] using hwf)
  case serialWord v => exact decode_serial_byteBits v
  case frame bytes => exact decode_frame_toList bytes
  case csa | csd | rst | step | cmdStop => rfl
  all_goals cases hspell

/-- A code decodes to exactly the operation that has it (R84, R90). -/
theorem decode_eq_ok {code : Code} {i : Instr} : decode code = .ok i ↔ CodeOf code i :=
  ⟨codeOf_of_decode, decode_of_codeOf⟩

/-! ### Spelling (R88, R94) -/

theorem spelled_spelled (i : Instr) : i.spelled.spelled = i.spelled := by cases i <;> rfl

theorem encode_spelled (i : Instr) : encode i.spelled = encode i := by cases i <;> rfl

theorem wf_spelled {i : Instr} (h : i.wf = true) : i.spelled.wf = true := by
  cases i <;> exact h

/-! ### Masks and matches -/

/-- The word without its low `k` bits. -/
theorem and_highMask_toNat (w : TraceWord) (k : Nat) :
    (w &&& BitVec.allOnes 32 <<< k).toNat = w.toNat / 2 ^ k * 2 ^ k := by
  have hshift : w &&& BitVec.allOnes 32 <<< k = w >>> k <<< k := by
    apply BitVec.eq_of_getLsbD_eq
    intro j hj
    simp only [BitVec.getLsbD_and, BitVec.getLsbD_shiftLeft, BitVec.getLsbD_ushiftRight, BitVec.getLsbD_allOnes]
    by_cases hjk : j < k
    · simp [hjk]
    · have hlow : j - k < 32 := by omega
      have hsum : k + (j - k) = j := by omega
      simp [hjk, hj, hlow, hsum]
  have hle := Nat.div_mul_le_self w.toNat (2 ^ k)
  rw [hshift, BitVec.toNat_shiftLeft, BitVec.toNat_ushiftRight, Nat.shiftRight_eq_div_pow, Nat.shiftLeft_eq]
  exact Nat.mod_eq_of_lt (hle.trans_lt w.isLt)


/-- A row of the opcode table: the bits from `k` up are the row's `op` with zeros below, and the bits below `k` are the
operand. -/
theorem traceWord_eq_iff_mask {k : Nat} (hk : k ≤ 28) {op : BitVec 4} {arg : BitVec 28} (harg : arg.toNat < 2 ^ k)
    (w : TraceWord) :
    traceWord op arg = w ↔
      w &&& BitVec.allOnes 32 <<< k = traceWord op 0#28 ∧ arg.toNat = w.toNat % 2 ^ k := by
  have hsplit : w.toNat / 2 ^ k * 2 ^ k + w.toNat % 2 ^ k = w.toNat := by
    rw [Nat.mul_comm]
    exact Nat.div_add_mod w.toNat (2 ^ k)
  rw [← BitVec.toNat_inj, ← BitVec.toNat_inj, and_highMask_toNat, traceWord_toNat, traceWord_toNat]
  constructor
  · intro hw
    have hdvd : 2 ^ k ∣ op.toNat * 268435456 := (Nat.pow_dvd_pow 2 hk).mul_left op.toNat
    have hlow : arg.toNat = w.toNat % 2 ^ k := by
      rw [← hw, Nat.add_mod, Nat.mod_eq_zero_of_dvd hdvd, Nat.zero_add, Nat.mod_mod, Nat.mod_eq_of_lt harg]
    refine ⟨?_, hlow⟩
    rw [BitVec.toNat_ofNat, Nat.zero_mod]
    omega
  · rintro ⟨hhigh, hlow⟩
    rw [BitVec.toNat_ofNat, Nat.zero_mod] at hhigh
    omega

theorem decode_trace_iff {w : TraceWord} {i : Instr} {op : BitVec 4} {arg : BitVec 28} (hspell : i.spelled = i)
    (henc : encode i = some (.trace (traceWord op arg))) :
    decode (.trace w) = .ok i ↔ i.wf = true ∧ traceWord op arg = w := by
  rw [decode_eq_ok, CodeOf, henc, Option.some.injEq, Code.trace.injEq]
  simp only [hspell, true_and]

/-- A row with no operand. -/
theorem decode_bare_iff {w : TraceWord} {i : Instr} {op : BitVec 4} (hwf : i.wf = true) (hspell : i.spelled = i)
    (henc : encode i = some (.trace (traceWord op 0#28))) : decode (.trace w) = .ok i ↔ w = traceWord op 0#28 := by
  rw [decode_trace_iff hspell henc, hwf, eq_self, true_and, eq_comm]

/-- A row with one bit for its operand. -/
theorem decode_bit_iff {w : TraceWord} {i : Instr} {op : BitVec 4} {b : Bool} (hwf : i.wf = true)
    (hspell : i.spelled = i) (henc : encode i = some (.trace (traceWord op ((BitVec.ofBool b).setWidth 28)))) :
    decode (.trace w) = .ok i ↔ w &&& 0xFFFFFFFE#32 = traceWord op 0#28 ∧ b.toNat = w.toNat % 2 := by
  have hlt : ((BitVec.ofBool b).setWidth 28).toNat < 2 ^ 1 := by
    rw [bitArg_toNat]
    exact b.toNat_lt
  rw [decode_trace_iff hspell henc, hwf, eq_self, true_and, traceWord_eq_iff_mask (by decide) hlt, bitArg_toNat]
  rfl

/-! ### The statements -/

/-- Settles O1, each code by evaluation. -/
theorem writtenCodesDecode : Obligations.WrittenCodesDecode :=
  ⟨rfl, rfl, rfl, rfl, rfl, rfl, rfl, rfl, rfl, rfl, rfl⟩

/-- Settles O2: the operation's code is that of what it spells. -/
theorem decodeOfEncodeIsTheOperation : Obligations.DecodeOfEncodeIsTheOperation := by
  intro i hwf
  cases henc : encode i with
  | some code =>
    have hcode : CodeOf code i.spelled := ⟨wf_spelled hwf, spelled_spelled i, (encode_spelled i).trans henc⟩
    exact .inl ⟨code, rfl, decode_of_codeOf hcode⟩
  | none =>
    refine .inr ⟨rfl, ?_⟩
    cases i <;> cases henc <;> simp

/-- Settles O3, the other direction of the same equivalence. -/
theorem decodedCodeIsTheCodeOfItsOperation : Obligations.DecodedCodeIsTheCodeOfItsOperation :=
  fun _ _ h => codeOf_of_decode h

/-- Settles O4, each row by its mask. -/
theorem traceWordsDecodeByMaskAndMatch : Obligations.TraceWordsDecodeByMaskAndMatch := by
  intro w
  refine ⟨decode_bare_iff (op := 0) rfl rfl rfl, fun v => ?rxb, fun b => decode_bit_iff (op := 2) rfl rfl rfl,
    decode_bare_iff (op := 3) rfl rfl rfl, decode_bare_iff (op := 4) rfl rfl rfl,
    fun l => decode_bit_iff (op := 5) rfl rfl rfl, fun d => ?adv, decode_bare_iff (op := 7) rfl rfl rfl⟩
  case rxb =>
    have hlt : (v.setWidth 28).toNat < 2 ^ 8 := by
      rw [byteArg_toNat]
      exact v.isLt
    rw [decode_trace_iff rfl rfl, traceWord_eq_iff_mask (by decide) hlt, byteArg_toNat]
    simp only [Instr.wf, true_and]
    rfl
  case adv =>
    rw [decode_trace_iff rfl rfl, traceWord_eq_iff_mask (le_refl 28) d.isLt, Instr.wf, bne_iff_ne, and_comm, and_assoc]
    rfl

end Sys2Proof

/-! PROOFS. One step of the machine (R84, R90, R182): the word it takes decides what it does. -/

namespace Sys2Proof.Machine

section Step

variable {s : State} {w : TraceWord} {rest : List TraceWord} (htrace : s.trace = w :: rest)

include htrace

theorem step_of_decode_ok {i : Instr} (h : decode (.trace w) = .ok i) : step s = exec i { s with trace := rest } := by
  simp only [step, State.fetch, htrace, h]

theorem step_of_decode_error {why : Reject} (h : decode (.trace w) = .error why) :
    step s = .refused (.notAnOperation why) := by
  simp only [step, State.fetch, htrace, h]

end Step

/-- With no word pending the sequencer has its turn (log 2). -/
theorem step_of_no_trace {s : State} (h : s.trace = []) : step s = exec .step s := by
  have hstep : decode (.trace 0x00000000#32) = .ok .step := rfl
  simp only [step, State.fetch, h, hstep]

/-- The values of `op` and `arg` that spell an operation (R84, R90). -/
def InRow (op arg : Nat) : Prop :=
  ((op = 0 ∨ op = 3 ∨ op = 4 ∨ op = 7) ∧ arg = 0) ∨ (op = 1 ∧ arg < 256) ∨ ((op = 2 ∨ op = 5) ∧ arg < 2) ∨
    (op = 6 ∧ arg ≠ 0)

theorem inRow_of_decode {w : TraceWord} {i : Instr} (h : decode (.trace w) = .ok i) :
    InRow (w.toNat / 268435456) (w.toNat % 268435456) := by
  obtain ⟨hwf, hspell, henc⟩ := codeOf_of_decode h
  rw [← opOf_toNat, ← argOf_toNat]
  cases i <;> cases henc <;> rw [opOf_traceWord, argOf_traceWord]
  case rxb v => exact .inr (.inl ⟨rfl, by rw [byteArg_toNat]; exact v.isLt⟩)
  case sbit b => exact .inr (.inr (.inl ⟨.inl rfl, by rw [bitArg_toNat]; exact b.toNat_lt⟩))
  case sync l => exact .inr (.inr (.inl ⟨.inr rfl, by rw [bitArg_toNat]; exact l.toNat_lt⟩))
  case adv d =>
    have hd : d ≠ 0#28 := by simpa [Instr.wf] using hwf
    exact .inr (.inr (.inr ⟨rfl, fun hz => hd (BitVec.eq_of_toNat_eq hz)⟩))
  all_goals exact .inl ⟨by decide, rfl⟩

/-! ### The statements -/

/-- Settles O5, from the step on a pending word and on none. -/
theorem stepRunsTheDecodedOperation : Obligations.StepRunsTheDecodedOperation :=
  ⟨fun _ _ _ _ htrace h => step_of_decode_ok htrace h, fun _ h => step_of_no_trace h⟩

/-- Settles O6: no row of the table has such a word, so the decoder rejects it. -/
theorem wordsThatSpellNothingAreRefused : Obligations.WordsThatSpellNothingAreRefused := by
  intro s w rest htrace op arg hbad
  cases hdec : decode (.trace w) with
  | error why => exact ⟨why, step_of_decode_error htrace hdec⟩
  | ok i =>
    have hrow : InRow op arg := inRow_of_decode hdec
    unfold InRow at hrow
    omega

end Sys2Proof.Machine

/-! PROOFS. What the proofs of several families share: the micro-step a state selects, what the sequencer's step writes,
what an operation of a run does, and how a predicate is carried over every operation, every step and every run. -/

namespace Sys2Proof.Machine

/-! ### Selection (R88) -/

theorem selected_eq_drainx {s : State} : s.selected = .drainx ↔ s.phase = .a ∧ s.fifo = [] := by
  unfold State.selected
  cases s.phase <;> cases s.fifo <;> cases s.syncflag <;> simp

theorem selected_eq_bend {s : State} : s.selected = .bend ↔ s.phase = .bend := by
  unfold State.selected
  cases s.phase <;> cases s.fifo <;> cases s.syncflag <;> simp

theorem selected_eq_capply {s : State} : s.selected = .capply ↔ s.phase = .capply := by
  unfold State.selected
  cases s.phase <;> cases s.fifo <;> cases s.syncflag <;> simp

theorem selected_eq_cind {s : State} : s.selected = .cind ↔ s.phase = .cind := by
  unfold State.selected
  cases s.phase <;> cases s.fifo <;> cases s.syncflag <;> simp

/-! ### What the sequencer's step writes (R20, R70) -/

theorem sequencerStep_of_selected {m : MicroStep} {s : State} (h : s.selected = m) :
    sequencerStep s = microEffect m s := by rw [sequencerStep, h]

section SequencerFrame

variable (s : State)

/-- The registers of the sequencer, the FIFO's head, the flag and the status: nothing else. -/
theorem sequencerStep_writes : sequencerStep s = { s with
    pend := (sequencerStep s).pend, actv := (sequencerStep s).actv, fp := (sequencerStep s).fp
    syncflag := (sequencerStep s).syncflag, lastsync := (sequencerStep s).lastsync
    lastbyte := (sequencerStep s).lastbyte, status := (sequencerStep s).status, phase := (sequencerStep s).phase
    chidx := (sequencerStep s).chidx, fifo := (sequencerStep s).fifo, cmp := (sequencerStep s).cmp } := by
  unfold sequencerStep
  cases s.selected
  case drain => simp only [microEffect, drainByte]; split <;> rfl
  all_goals rfl

@[simp] theorem sequencerStep_cfg : (sequencerStep s).cfg = s.cfg := by rw [sequencerStep_writes]
@[simp] theorem sequencerStep_synccnt : (sequencerStep s).synccnt = s.synccnt := by rw [sequencerStep_writes]
@[simp] theorem sequencerStep_now : (sequencerStep s).now = s.now := by rw [sequencerStep_writes]
@[simp] theorem sequencerStep_sr : (sequencerStep s).sr = s.sr := by rw [sequencerStep_writes]
@[simp] theorem sequencerStep_bitcnt : (sequencerStep s).bitcnt = s.bitcnt := by rw [sequencerStep_writes]
@[simp] theorem sequencerStep_sel : (sequencerStep s).sel = s.sel := by rw [sequencerStep_writes]
@[simp] theorem sequencerStep_synclvl : (sequencerStep s).synclvl = s.synclvl := by rw [sequencerStep_writes]
@[simp] theorem sequencerStep_live : (sequencerStep s).live = s.live := by rw [sequencerStep_writes]
@[simp] theorem sequencerStep_cnt : (sequencerStep s).cnt = s.cnt := by rw [sequencerStep_writes]
@[simp] theorem sequencerStep_ovr : (sequencerStep s).ovr = s.ovr := by rw [sequencerStep_writes]

variable {s}

theorem sequencerStep_pend (h : s.selected ≠ .drain) :
    (sequencerStep s).pend = s.pend := by
  cases hm : s.selected
  case drain => exact absurd hm h
  all_goals simp [sequencerStep_of_selected hm, microEffect]

theorem sequencerStep_lastbyte (h : s.selected ≠ .drain) :
    (sequencerStep s).lastbyte = s.lastbyte := by
  cases hm : s.selected
  case drain => exact absurd hm h
  all_goals simp [sequencerStep_of_selected hm, microEffect]

theorem sequencerStep_fifo (h : s.selected ≠ .drain) :
    (sequencerStep s).fifo = s.fifo := by
  cases hm : s.selected
  case drain => exact absurd hm h
  all_goals simp [sequencerStep_of_selected hm, microEffect]

theorem sequencerStep_fp (h : s.selected ≠ .drain) (h' : s.selected ≠ .bend) :
    (sequencerStep s).fp = s.fp := by
  cases hm : s.selected
  case drain => exact absurd hm h
  case bend => exact absurd hm h'
  all_goals simp [sequencerStep_of_selected hm, microEffect]

theorem sequencerStep_actv (h : s.selected ≠ .svc) :
    (sequencerStep s).actv = s.actv := by
  cases hm : s.selected
  case svc => exact absurd hm h
  all_goals simp [sequencerStep_of_selected hm, microEffect]

theorem sequencerStep_lastsync (h : s.selected ≠ .svc) :
    (sequencerStep s).lastsync = s.lastsync := by
  cases hm : s.selected
  case svc => exact absurd hm h
  all_goals simp [sequencerStep_of_selected hm, microEffect]

theorem sequencerStep_syncflag (h : s.selected ≠ .svc) :
    (sequencerStep s).syncflag = s.syncflag := by
  cases hm : s.selected
  case svc => exact absurd hm h
  all_goals simp [sequencerStep_of_selected hm, microEffect]

theorem sequencerStep_status (h : s.selected ≠ .cind) :
    (sequencerStep s).status = s.status := by
  cases hm : s.selected
  case cind => exact absurd hm h
  all_goals simp [sequencerStep_of_selected hm, microEffect]

theorem sequencerStep_cmp (h : s.selected ≠ .bapply) (h' : s.selected ≠ .capply) :
    (sequencerStep s).cmp = s.cmp := by
  cases hm : s.selected
  case bapply => exact absurd hm h
  case capply => exact absurd hm h'
  all_goals simp [sequencerStep_of_selected hm, microEffect]

end SequencerFrame

/-! ### `exec` of the operations whose operands decide -/

theorem exec_adv_zero (s : State) : exec (.adv 0#28) s = .refused (.notAnOperation .advZero) := rfl

theorem exec_cmdDrive_zero (s : State) : exec (.cmdDrive 0#8) s = .refused (.commandNotRead 0#8) := rfl

theorem exec_cmdDrive {v : Byte} (hv : v ≠ 0#8) (s : State) :
    exec (.cmdDrive v) s = runCommand v (1200 + v.toNat * 800 / 255) s := if_neg hv

theorem exec_setPulse (i : Chan) (us : Nat) (s : State) : exec (.setPulse i.val us) s = .next (setPulse i us s) :=
  dif_pos i.isLt

theorem exec_setPulse_of_ge {i : Nat} (us : Nat) (s : State) (h : 9 ≤ i) :
    exec (.setPulse i us) s = .refused (.channelOutOfRange i) := by
  simp only [exec, execSetPulse, CH_PER_NODE, Nat.not_lt_of_le h, dite_false]

/-! ### One operation of a run -/

/-- What an operation of a run does, by its kind (R182). -/
inductive RunStep (s : State) : Instr → State → Prop
  | rxb (v : Byte) : RunStep s (.rxb v) (fifoPush v s)
  | sbit (b : Bool) : RunStep s (.sbit b) (serialBit b s)
  | csa : RunStep s .csa (chipSelect true s)
  | csd : RunStep s .csd (chipSelect false s)
  | sync (l : Bool) : RunStep s (.sync l) (syncLevel l s)
  | adv (d : BitVec 28) (hd : d ≠ 0#28) : RunStep s (.adv d) (advance d.toNat s)
  | step : RunStep s .step (sequencerStep s)

theorem RunStep.exec_eq {i : Instr} {s t : State} (h : RunStep s i t) : exec i s = .next t := by
  cases h with
  | adv d hd => exact exec_adv hd s
  | _ => rfl

theorem RunStep.of_exec {i : Instr} {s t : State} (hi : isRunOp i = true) (h : exec i s = .next t) :
    RunStep s i t := by
  cases i <;> simp only [isRunOp, Bool.false_eq_true, bne_iff_ne, ne_eq] at hi
  case adv d =>
    rw [exec_adv hi] at h
    cases h
    exact .adv d hi
  all_goals
    cases h
    constructor

/-- No operation of a run writes the configuration. -/
theorem RunStep.cfg_eq {i : Instr} {s t : State} (h : RunStep s i t) : t.cfg = s.cfg := by
  cases h <;> simp

/-! ### Runs -/

/-- A finite run, one operation at a time. -/
inductive Runs : List Instr → State → State → Prop
  | nil (s : State) : Runs [] s s
  | cons {i : Instr} {ops : List Instr} {s u t : State} (first : RunStep s i u) (rest : Runs ops u t) :
    Runs (i :: ops) s t

theorem Runs.of_runOps {ops : List Instr} {s t : State} (hops : ops.all isRunOp = true)
    (h : runOps ops s = .next t) : Runs ops s t := by
  induction ops generalizing s with
  | nil => cases h; exact .nil _
  | cons i ops ih =>
    simp only [List.all_cons, Bool.and_eq_true] at hops
    obtain ⟨u, hu, hrest⟩ := runOps_cons_eq_next.1 h
    exact .cons (.of_exec hops.1 hu) (ih hops.2 hrest)

theorem Runs.runOps_eq {ops : List Instr} {s t : State} (h : Runs ops s t) : runOps ops s = .next t := by
  induction h with
  | nil => rfl
  | cons first _ ih => exact runOps_cons_eq_next.2 ⟨_, first.exec_eq, ih⟩

/-- Operations of a run and later power-ons run from every state (R8, R182). -/
theorem exists_runOps {ops : List Instr} (hops : ops.all isTraceOp = true) (s : State) :
    ∃ t, runOps ops s = .next t := by
  induction ops generalizing s with
  | nil => exact ⟨s, rfl⟩
  | cons i ops ih =>
    simp only [List.all_cons, Bool.and_eq_true] at hops
    obtain ⟨u, hu⟩ := exec_of_isTraceOp hops.1 s
    obtain ⟨t, ht⟩ := ih hops.2 u
    exact ⟨t, runOps_cons_eq_next.2 ⟨u, hu, ht⟩⟩

theorem exists_runs {ops : List Instr} (hops : ops.all isRunOp = true) (s : State) : ∃ t, Runs ops s t := by
  have htrace : ops.all isTraceOp = true :=
    List.all_eq_true.2 fun i hi => by simp [isTraceOp, List.all_eq_true.1 hops i hi]
  obtain ⟨t, ht⟩ := exists_runOps htrace s
  exact ⟨t, .of_runOps hops ht⟩

/-! ### Invariants -/

/-- Every operation of a run and the power cycle keep `P`. -/
structure KeptInRuns (P : State → Prop) : Prop where
  push : ∀ v s, P s → P (fifoPush v s)
  bit : ∀ b s, P s → P (serialBit b s)
  select : ∀ l s, P s → P (chipSelect l s)
  level : ∀ l s, P s → P (syncLevel l s)
  time : ∀ d s, P s → P (advance d s)
  power : ∀ s, P s → P (powerCycle s)
  turn : ∀ s, P s → P (sequencerStep s)

/-- So do the functions called by themselves, and the command forms where `BAPPLY` reads them. -/
structure Kept (P : State → Prop) : Prop extends KeptInRuns P where
  edge : ∀ s, P s → P (edgeHandler s)
  wave : ∀ d s, P s → P (pwmAdvance d s)
  pulse : ∀ i us s, P s → P (setPulse i us s)
  command : ∀ us s, s.phase = .bapply → P s → P (applyPulse us s)

theorem KeptInRuns.exec {P : State → Prop} (k : KeptInRuns P) {i : Instr} {s t : State} (hi : isTraceOp i = true)
    (hs : P s) (h : exec i s = .next t) : P t := by
  simp only [isTraceOp, Bool.or_eq_true, beq_iff_eq] at hi
  rcases hi with hi | rfl
  · cases RunStep.of_exec hi h with
    | rxb v => exact k.push v s hs
    | sbit b => exact k.bit b s hs
    | csa => exact k.select true s hs
    | csd => exact k.select false s hs
    | sync l => exact k.level l s hs
    | adv d => exact k.time d.toNat s hs
    | step => exact k.turn s hs
  · cases h
    exact k.power s hs

/-- A command form that runs is the `BAPPLY` of its pulse, in phase BAPPLY (R88, log 17). -/
theorem runCommand_phase {v : Byte} {us : Nat} {s t : State} (h : runCommand v us s = .next t) :
    s.phase = .bapply ∧ t = applyPulse us s := by
  obtain ⟨hread, rfl⟩ := runCommand_next.1 h
  simp only [State.readsCommand, Bool.and_eq_true, beq_iff_eq] at hread
  exact ⟨selected_eq_bapply.1 hread.1, rfl⟩

theorem Kept.microStep {P : State → Prop} (k : Kept P) {m : MicroStep} {s t : State} (hs : P s)
    (h : exec m.instr s = .next t) : P t := by
  rw [exec_microStep, runSelected_next] at h
  obtain ⟨hm, rfl⟩ := h
  rw [← sequencerStep_of_selected hm]
  exact k.turn s hs

/-- What every effect keeps, every one of the 26 operations keeps. -/
theorem Kept.exec {P : State → Prop} (k : Kept P) {i : Instr} {s t : State} (hs : P s) (h : exec i s = .next t) :
    P t := by
  cases i
  case rxb | sbit | csa | csd | sync | rst | step => exact k.toKeptInRuns.exec rfl hs h
  case adv d =>
    by_cases hd : d = 0#28
    · rw [hd, exec_adv_zero] at h
      cases h
    · exact k.toKeptInRuns.exec (by simp [isTraceOp, isRunOp, hd]) hs h
  case drain => exact k.microStep (m := .drain) hs h
  case drainx => exact k.microStep (m := .drainx) hs h
  case svc => exact k.microStep (m := .svc) hs h
  case nosvc => exact k.microStep (m := .nosvc) hs h
  case bapply => exact k.microStep (m := .bapply) hs h
  case bend => exact k.microStep (m := .bend) hs h
  case wdg => exact k.microStep (m := .wdg) hs h
  case capply => exact k.microStep (m := .capply) hs h
  case cind => exact k.microStep (m := .cind) hs h
  case cmdStop =>
    obtain ⟨hp, rfl⟩ := runCommand_phase h
    exact k.command _ s hp hs
  case cmdDrive v =>
    by_cases hv : v = 0#8
    · rw [hv, exec_cmdDrive_zero] at h
      cases h
    · rw [exec_cmdDrive hv] at h
      obtain ⟨hp, rfl⟩ := runCommand_phase h
      exact k.command _ s hp hs
  case serialWord v =>
    cases h
    exact List.foldlRecOn _ _ hs fun u hu b _ => k.bit b u hu
  case frame bytes =>
    cases h
    exact List.foldlRecOn _ _ hs fun u hu v _ => k.push v u hu
  case setPulse i us =>
    rcases Nat.lt_or_ge i 9 with hi | hi
    · rw [exec_setPulse ⟨i, hi⟩ us s] at h
      cases h
      exact k.pulse ⟨i, hi⟩ us s hs
    · rw [exec_setPulse_of_ge us s hi] at h
      cases h
  case map v => cases h; exact hs
  case edgeHandler => cases h; exact k.edge s hs
  case fifoPush v => cases h; exact k.push v s hs
  case pwmAdvance d => cases h; exact k.wave _ s hs

/-! ### One step of the machine -/

/-- The fetch takes the next word from the pending trace and touches nothing else. -/
theorem fetch_snd (s : State) : s.fetch.2 = { s with trace := s.trace.tail } := by
  unfold State.fetch
  split
  · next h => rw [h, List.tail_nil, ← h]
  · next h => rw [h, List.tail_cons]

theorem step_eq_next {s t : State} :
    step s = .next t ↔ ∃ i, decode (.trace s.fetch.1) = .ok i ∧ exec i s.fetch.2 = .next t := by
  unfold step
  cases decode (.trace s.fetch.1) <;> simp

/-- A trace word spells an operation of a run or `RST` (R84). -/
theorem isTraceOp_of_decode {w : TraceWord} {i : Instr} (h : decode (.trace w) = .ok i) : isTraceOp i = true := by
  obtain ⟨hwf, hspell, henc⟩ := codeOf_of_decode h
  cases i <;> cases henc
  case rxb | sbit | csa | csd | sync | rst | step => rfl
  case adv d => simpa [isTraceOp, isRunOp, Instr.wf] using hwf
  all_goals cases hspell

/-- What every operation of a run and the power cycle keep, every step keeps. -/
theorem KeptInRuns.step {P : State → Prop} (k : KeptInRuns P)
    (htrace : ∀ (s : State) (trace : List TraceWord), P s → P { s with trace := trace }) {s t : State} (hs : P s)
    (h : step s = .next t) : P t := by
  obtain ⟨i, hi, ht⟩ := step_eq_next.1 h
  refine k.exec (isTraceOp_of_decode hi) ?_ ht
  rw [fetch_snd]
  exact htrace s _ hs

end Sys2Proof.Machine

/-! PROOFS. The invariant of reachable states (R42): each effect keeps it, hence every operation and every step; and it
holds after power-on. -/

namespace Sys2Proof.Machine

section InvKept

variable {s : State}

theorem inv_fifoPush (v : Byte) (h : s.Inv) : (fifoPush v s).Inv :=
  { h with fifo_le := fifoPushed_length_le s v h.fifo_le }

theorem inv_serialBit (b : Bool) (h : s.Inv) : (serialBit b s).Inv := by
  refine { h with fifo_le := ?fifo, bitcnt_lt := ?lt, bitcnt_zero := fun hsel => ?zero }
  case fifo =>
    rw [serialBit_fifo, serialBit_cfg]
    split
    · exact fifoPushed_length_le s _ h.fifo_le
    · exact h.fifo_le
  case lt =>
    have hlt := h.bitcnt_lt
    rw [serialBit_bitcnt]
    split_ifs <;> omega
  case zero =>
    rw [serialBit_sel] at hsel
    simpa [hsel] using h.bitcnt_zero hsel

theorem inv_chipSelect (l : Bool) (h : s.Inv) : (chipSelect l s).Inv :=
  { h with bitcnt_lt := by simp, bitcnt_zero := fun _ => rfl }

theorem inv_edgeHandler (h : s.Inv) : (edgeHandler s).Inv := by
  refine { h with synccnt_lt := ?_ }
  have hlt := h.synccnt_lt
  rw [edgeHandler_synccnt]
  split
  · exact Nat.zero_lt_succ 19
  · next hdue =>
    have hne : s.synccnt + 1 ≠ 20 := by simpa [State.heartbeatDue] using hdue
    exact Nat.lt_of_le_of_ne hlt hne

theorem inv_syncLevel (l : Bool) (h : s.Inv) : (syncLevel l s).Inv := by
  have hedge : (if s.risingEdge l then edgeHandler s else s).Inv := by
    split
    · exact inv_edgeHandler h
    · exact h
  exact { hedge with }

theorem inv_setPulse (i : Chan) (us : Nat) (h : s.Inv) : (setPulse i us s).Inv := by
  refine { h with cmp_range := fun c => ?_ }
  rw [setPulse_cmp, Fin.getElem_fin, Vector.getElem_set]
  split
  · exact clampPulse_range us
  · exact h.cmp_range c

/-- In the two phases that walk the channels, the last one resets `CHIDX`. -/
theorem inv_nextChannel (p : Phase) (hp : s.phase = .bapply ∨ s.phase = .capply) (h : s.Inv) :
    (nextChannel p s).Inv := by
  refine { h with chidx_zero := fun hb hc => ?_ }
  by_cases hlast : s.chidx = 8
  · simp [hlast]
  · rw [nextChannel_phase, if_neg hlast] at hb hc
    exact (hp.elim hb hc).elim

theorem inv_applyPulse (us : Nat) (hp : s.phase = .bapply) (h : s.Inv) : (applyPulse us s).Inv :=
  inv_nextChannel .bend (.inl hp) (inv_setPulse s.chidx us h)

theorem inv_drainByte (h : s.Inv) : (drainByte s).Inv := by
  cases hf : s.fifo with
  | nil => simpa [drainByte, hf] using h
  | cons b rest =>
    have hle : rest.length + 1 ≤ s.cfg.fifoDepth := by simpa [hf] using h.fifo_le
    rw [drainByte_cons hf]
    exact { h with
      fp_le := nextPosition_le h.fp_le
      lastbyte_le := le_refl s.now
      fifo_le := Nat.le_of_succ_le hle }

/-- A phase that walks no channels may be entered where `CHIDX` is 0. -/
theorem inv_enterPhase (p : Phase) (hz : s.chidx = 0) (h : s.Inv) : (enterPhase p s).Inv :=
  { h with chidx_zero := fun _ _ => hz }

/-- The sequencer's step, by the micro-step the state selects. -/
theorem inv_sequencerStep (h : s.Inv) : (sequencerStep s).Inv := by
  have hzero : s.phase ≠ .bapply → s.phase ≠ .capply → s.chidx = 0 := h.chidx_zero
  cases hm : s.selected <;> rw [sequencerStep_of_selected hm]
  case drain => exact inv_drainByte h
  case drainx =>
    obtain ⟨hp, -⟩ := selected_eq_drainx.1 hm
    exact inv_enterPhase .b (hzero (by simp [hp]) (by simp [hp])) h
  case svc => exact { h with lastsync_le := le_refl s.now, chidx_zero := fun _ _ => rfl }
  case nosvc =>
    obtain ⟨hp, -⟩ := selected_eq_nosvc.1 hm
    exact inv_enterPhase .c (hzero (by simp [hp]) (by simp [hp])) h
  case bapply => exact inv_applyPulse _ (selected_eq_bapply.1 hm) h
  case bend =>
    have hp := selected_eq_bend.1 hm
    exact { h with fp_le := Nat.zero_le _, chidx_zero := fun _ _ => hzero (by simp [hp]) (by simp [hp]) }
  case wdg =>
    have hp := selected_eq_wdg.1 hm
    have hz : s.chidx = 0 := hzero (by simp [hp]) (by simp [hp])
    exact { h with chidx_zero := fun _ _ => by simp [microEffect, hz] }
  case capply => exact inv_nextChannel .cind (.inr (selected_eq_capply.1 hm)) (inv_setPulse s.chidx IDLE_US h)
  case cind =>
    have hp := selected_eq_cind.1 hm
    exact { h with chidx_zero := fun _ _ => hzero (by simp [hp]) (by simp [hp]) }

theorem inv_pwmAdvance (d : Nat) (h : s.Inv) : (pwmAdvance d s).Inv := by
  refine { h with live_range := fun c => ?live, cnt_lt := fun c => ?cnt }
  case live =>
    simp only [pwmAdvance_live, Fin.getElem_fin, Vector.getElem_ofFn]
    split
    · exact h.cmp_range c
    · exact h.live_range c
  case cnt =>
    have hperiod := h.cfg_ok.pwmPeriod_ge
    simp only [pwmAdvance_cnt, Fin.getElem_fin, Vector.getElem_ofFn]
    exact Nat.mod_lt _ (by omega)

/-- The time stamps are of the past, so a later clock keeps the invariant. -/
theorem inv_later {now : Nat} (hle : s.now ≤ now) (h : s.Inv) : State.Inv { s with now := now } :=
  { h with lastsync_le := h.lastsync_le.trans hle, lastbyte_le := h.lastbyte_le.trans hle }

theorem inv_advance (d : Nat) (h : s.Inv) : (advance d s).Inv :=
  inv_later (Nat.le_add_right s.now d) (inv_pwmAdvance d h)

/-- R40 meets R42 for every admissible configuration and every clock value. -/
theorem inv_powerOn {g : Config} (hg : g.Ok) (t0 : Nat) : (State.powerOn g t0).Inv where
  cfg_ok := hg
  fp_le := Nat.zero_le _
  synccnt_lt := Nat.zero_lt_succ 19
  cmp_range c := by simp [State.powerOn]
  live_range c := by simp [State.powerOn]
  cnt_lt := hg.pwmPhase0_lt
  lastsync_le := le_refl t0
  lastbyte_le := le_refl t0
  chidx_zero _ _ := rfl
  fifo_le := Nat.zero_le _
  bitcnt_lt := Nat.zero_lt_succ 7
  bitcnt_zero _ := rfl

theorem inv_powerCycle (h : s.Inv) : (powerCycle s).Inv :=
  { inv_powerOn h.cfg_ok (Config.freeT0 s.cfg.nodeId s.draws) with }

end InvKept

theorem inv_kept : Kept State.Inv where
  push v _ h := inv_fifoPush v h
  bit b _ h := inv_serialBit b h
  select l _ h := inv_chipSelect l h
  level l _ h := inv_syncLevel l h
  time d _ h := inv_advance d h
  power _ h := inv_powerCycle h
  turn _ h := inv_sequencerStep h
  edge _ h := inv_edgeHandler h
  wave d _ h := inv_pwmAdvance d h
  pulse i us _ h := inv_setPulse i us h
  command us _ hp h := inv_applyPulse us hp h

/-! ### The statements -/

/-- Settles O10: every effect keeps the invariant. -/
theorem everyOperationKeepsTheInvariant : Obligations.EveryOperationKeepsTheInvariant :=
  fun _ _ _ hs h => inv_kept.exec hs h

/-- Settles O11: every operation a word can spell keeps it, and the fetch touches the pending trace alone. -/
theorem everyStepKeepsTheInvariant : Obligations.EveryStepKeepsTheInvariant :=
  fun _ _ hs h => inv_kept.toKeptInRuns.step (fun _ _ hu => { hu with }) hs h

/-- Settles O12: every effect leaves the configuration as it was. -/
theorem noOperationWritesTheConfiguration : Obligations.NoOperationWritesTheConfiguration := by
  intro i s t h
  have hkept : Kept fun u => u.cfg = s.cfg :=
    { push := fun _ _ hu => hu, bit := fun _ _ hu => hu, select := fun _ _ hu => hu, power := fun _ hu => hu
      level := fun l u hu => (syncLevel_cfg l u).trans hu, time := fun d u hu => (advance_cfg d u).trans hu
      turn := fun u hu => (sequencerStep_cfg u).trans hu, edge := fun _ hu => hu, wave := fun _ _ hu => hu
      pulse := fun _ _ _ hu => hu, command := fun _ _ _ hu => hu }
  exact hkept.exec rfl h

end Sys2Proof.Machine

/-! PROOFS. The written commands follow the phase (R144, R147, R157): what a walk over the channels has written before
`CHIDX`, kept by every operation of a run and by the power cycle. -/

namespace Sys2Proof.Machine

/-! ### A walk over the channels -/

/-- Channel `k` written with its value, every channel up to it has its value. -/
theorem cmp_set_upTo {v w : Nine Nat} {k : Chan} (h : ∀ c : Chan, c < k → v[c] = w[c]) {c : Chan} (hc : c ≤ k) :
    (v.set k w[k])[c] = w[c] := by
  simp only [Fin.getElem_fin, Vector.getElem_set]
  split
  · next hk => simp only [hk]
  · next hk => exact h c (lt_of_le_of_ne hc fun e => hk (congrArg Fin.val e.symm))

/-- Short of channel 8 the next channel is the next number. -/
theorem next_val {k : Chan} (hk : k ≠ 8) : (k + 1).val = k.val + 1 :=
  Fin.val_add_one_of_lt (Fin.lt_last_iff_ne_last.2 hk)

/-- Before the channel after `k` are `k` and the channels before it. -/
theorem le_of_lt_next {c k : Chan} (hk : k ≠ 8) (h : c < k + 1) : c ≤ k := by
  rw [Fin.lt_def, next_val hk] at h
  exact Nat.le_of_lt_succ h

/-! ### Each effect keeps the commands -/

section CommandsKept

variable {s : State}

/-- In the three phases that are no part of a walk nothing is claimed. -/
theorem commandsFollowPhase_of_phase (h : s.phase = .a ∨ s.phase = .b ∨ s.phase = .c) : s.CommandsFollowPhase := by
  constructor <;> intro hp <;> simp [hp] at h

/-- An effect that leaves the sequencer's position, the commands and the latched bytes alone keeps the claim. -/
theorem State.CommandsFollowPhase.of_same {t : State} (h : s.CommandsFollowPhase) (hphase : t.phase = s.phase)
    (hchidx : t.chidx = s.chidx) (hcmp : t.cmp = s.cmp) (hactv : t.actv = s.actv) : t.CommandsFollowPhase := by
  obtain ⟨hbapply, hbend, hcapply, hcind⟩ := h
  constructor <;> rw [hphase, hcmp]
  · rwa [hchidx, hactv]
  · rwa [hactv]
  · rwa [hchidx]
  · exact hcind

/-- `BAPPLY` writes channel `CHIDX`, so the channels written are those before the next one, or all nine. -/
theorem commandsFollowPhase_bapply (hp : s.phase = .bapply) (h : s.CommandsFollowPhase) :
    (sequencerStep s).CommandsFollowPhase := by
  have hupTo : ∀ c : Chan, c ≤ s.chidx → (s.cmp.set s.chidx (mapUs s.actv[s.chidx]))[c] = mapUs s.actv[c] := by
    intro c hc
    have hbefore : ∀ c : Chan, c < s.chidx → s.cmp[c] = (s.actv.map mapUs)[c] := by simpa using h.bapply hp
    simpa using cmp_set_upTo hbefore hc
  rw [sequencerStep_bapply hp]
  by_cases hlast : s.chidx = 8
  · rw [if_pos hlast, if_pos hlast]
    exact ⟨nofun, fun _ c => hupTo c (hlast ▸ Fin.le_last c), nofun, nofun⟩
  · rw [if_neg hlast, if_neg hlast]
    exact ⟨fun _ c hc => hupTo c (le_of_lt_next hlast hc), nofun, nofun, nofun⟩

/-- `CAPPLY` likewise, with the idle pulse. -/
theorem commandsFollowPhase_capply (hp : s.phase = .capply) (h : s.CommandsFollowPhase) :
    (sequencerStep s).CommandsFollowPhase := by
  have hupTo : ∀ c : Chan, c ≤ s.chidx → (s.cmp.set s.chidx 1000)[c] = 1000 := by
    intro c hc
    have hbefore : ∀ c : Chan, c < s.chidx → s.cmp[c] = (Vector.replicate 9 1000)[c] := by simpa using h.capply hp
    simpa using cmp_set_upTo hbefore hc
  rw [sequencerStep_capply hp]
  by_cases hlast : s.chidx = 8
  · rw [if_pos hlast, if_pos hlast]
    exact ⟨nofun, nofun, nofun, fun _ c => hupTo c (hlast ▸ Fin.le_last c)⟩
  · rw [if_neg hlast, if_neg hlast]
    exact ⟨nofun, nofun, fun _ c hc => hupTo c (le_of_lt_next hlast hc), nofun⟩

/-- A walk that starts at channel 0 has written nothing yet. -/
theorem commandsFollowPhase_of_start (hp : s.phase = .bapply ∨ s.phase = .capply) (hz : s.chidx = 0) :
    s.CommandsFollowPhase := by
  refine ⟨fun _ c hc => ?_, fun hb => ?_, fun _ c hc => ?_, fun hc => ?_⟩
  · exact absurd hc (hz ▸ Fin.not_lt_zero c)
  · simp [hb] at hp
  · exact absurd hc (hz ▸ Fin.not_lt_zero c)
  · simp [hc] at hp

theorem commandsFollowPhase_sequencerStep (h : s.CommandsFollowPhase) : (sequencerStep s).CommandsFollowPhase := by
  cases hm : s.selected
  case bapply => exact commandsFollowPhase_bapply (selected_eq_bapply.1 hm) h
  case capply => exact commandsFollowPhase_capply (selected_eq_capply.1 hm) h
  all_goals rw [sequencerStep_of_selected hm]
  case drain => exact commandsFollowPhase_of_phase (.inl ((drainByte_phase s).trans (selected_eq_drain.1 hm).1))
  case drainx => exact commandsFollowPhase_of_phase (.inr (.inl rfl))
  case svc => exact commandsFollowPhase_of_start (.inl rfl) rfl
  case nosvc => exact commandsFollowPhase_of_phase (.inr (.inr rfl))
  case bend => exact commandsFollowPhase_of_phase (.inr (.inr rfl))
  case cind => exact commandsFollowPhase_of_phase (.inl rfl)
  case wdg =>
    cases hs : s.stale with
    | true => exact commandsFollowPhase_of_start (.inr (by simp [microEffect, hs])) (by simp [microEffect, hs])
    | false => exact commandsFollowPhase_of_phase (.inl (by simp [microEffect, hs]))

end CommandsKept

theorem commandsFollowPhase_kept : KeptInRuns State.CommandsFollowPhase where
  push _ _ h := h.of_same rfl rfl rfl rfl
  bit _ _ h := h.of_same rfl rfl rfl rfl
  select _ _ h := h.of_same rfl rfl rfl rfl
  level l s h := h.of_same (syncLevel_phase l s) (syncLevel_chidx l s) (syncLevel_cmp l s) (syncLevel_actv l s)
  time d s h := h.of_same (advance_phase d s) (advance_chidx d s) (advance_cmp d s) (advance_actv d s)
  power _ _ := commandsFollowPhase_of_phase (.inl rfl)
  turn _ h := commandsFollowPhase_sequencerStep h

/-! ### The statements -/

/-- Settles O59: a word spells no operation that commands a pulse outside its walk, and every other effect keeps the
commands. -/
theorem everyStepKeepsTheWrittenCommands : Obligations.EveryStepKeepsTheWrittenCommands :=
  fun _ _ hs h => commandsFollowPhase_kept.step (fun _ _ hu => hu.of_same rfl rfl rfl rfl) hs h

end Sys2Proof.Machine

/-! PROOFS. Reset (R40, R181): the table of a power-on, the power cycle, and the invariants at the start. -/

namespace Sys2Proof.Machine

/-- The reference parameters are admissible (R7). -/
theorem reference_admissible (n : Fin 4) : (Config.reference n).Ok where
  fifoDepth_pos := by simp [Config.reference]
  pwmPeriod_ge := le_refl 20000
  k_pos := le_refl 1
  faultHalf_pos := by simp [Config.reference]
  pwmPhase0_lt c := by simp [Config.reference]

theorem commandsFollowPhase_powerOn (g : Config) (t0 : Nat) : (State.powerOn g t0).CommandsFollowPhase :=
  commandsFollowPhase_of_phase (.inl rfl)

/-! ### The statements -/

/-- Settles O7, field by field. -/
theorem powerOnGivesTheResetTable : Obligations.PowerOnGivesTheResetTable := by
  intro g t0
  refine ⟨State.powerOn g t0, rfl, rfl, fun c => ?_, rfl, rfl, rfl, rfl, rfl, rfl, rfl, rfl, rfl, rfl, rfl, rfl, rfl,
    rfl, rfl, rfl, rfl⟩
  simp [State.powerOn]

/-- Settles O8: the node's next free clock value is the one. -/
theorem rstIsAPowerCycle : Obligations.RstIsAPowerCycle :=
  fun s => ⟨Config.freeT0 s.cfg.nodeId s.draws, exec_rst s⟩

/-- Settles O9: `State.reset` is a power-on with the reference parameters. -/
theorem powerOnMeetsTheInvariant : Obligations.PowerOnMeetsTheInvariant :=
  ⟨fun g t0 hg => ⟨inv_powerOn hg t0, commandsFollowPhase_powerOn g t0⟩,
    inv_powerOn (reference_admissible 1) 0, commandsFollowPhase_powerOn _ 0⟩

end Sys2Proof.Machine

/-! PROOFS. The serial line (R80, R81, R120 to R123): a push with room and at a full FIFO, the bits of a byte, and the
bytes of a frame. -/

namespace Sys2Proof.Machine

/-! ### `FifoPush` -/

theorem fifoPush_of_room {s : State} (v : Byte) (h : s.fifo.length < s.cfg.fifoDepth) :
    fifoPush v s = { s with fifo := s.fifo ++ [v] } := by
  simp [fifoPush, fifoPushed_of_room v h, State.ovrPushed, State.fifoFull, h]

theorem fifoPush_of_full {s : State} (v : Byte) (h : s.cfg.fifoDepth ≤ s.fifo.length) :
    fifoPush v s = { s with ovr := true } := by
  simp [fifoPush, fifoPushed_of_full v h, State.ovrPushed, State.fifoFull, h]

/-- How many bytes the FIFO still takes. -/
def State.room (s : State) : Nat := s.cfg.fifoDepth - s.fifo.length

/-- Bytes offered one after the other are queued as far as there is room, and a lost one leaves the mark (R122). -/
theorem foldl_fifoPush (bytes : List Byte) (s : State) :
    bytes.foldl (fun t v => fifoPush v t) s = { s with
      fifo := s.fifo ++ bytes.take s.room, ovr := s.ovr || decide (s.room < bytes.length) } := by
  induction bytes generalizing s with
  | nil => simp
  | cons v rest ih =>
    rw [List.foldl_cons, ih]
    by_cases h : s.fifo.length < s.cfg.fifoDepth
    · have hroom : s.room = (fifoPush v s).room + 1 := by
        simp only [State.room, fifoPush_of_room v h, List.length_append, List.length_singleton]
        omega
      simp only [hroom, List.take_succ_cons, List.length_cons, Nat.add_lt_add_iff_right]
      simp only [fifoPush_of_room v h, List.append_assoc, List.singleton_append]
    · have hfull : s.cfg.fifoDepth ≤ s.fifo.length := Nat.le_of_not_lt h
      have hroom : s.room = 0 := Nat.sub_eq_zero_of_le hfull
      have hroom' : (fifoPush v s).room = 0 := by rw [fifoPush_of_full v hfull]; exact hroom
      simp only [hroom, hroom', List.take_zero]
      simp [fifoPush_of_full v hfull]

/-! ### `SBIT` -/

theorem shiftIn_eq_ofNat (sr : Byte) (b : Bool) : shiftIn sr b = BitVec.ofNat 8 (sr.toNat % 128 * 2 + b.toNat) := by
  rw [← shiftIn_toNat, BitVec.ofNat_toNat, BitVec.setWidth_eq]

theorem serialBit_of_unselected {s : State} (b : Bool) (h : s.sel = false) : serialBit b s = s := by
  cases s
  simp_all [serialBit, State.byteEnds]

theorem serialBit_of_running {s : State} (b : Bool) (h : s.sel = true) (hcnt : s.bitcnt ≠ 7) :
    serialBit b s = { s with sr := shiftIn s.sr b, bitcnt := s.bitcnt + 1 } := by
  simp [serialBit, State.byteEnds, h, hcnt]

/-- The eighth bit pushes the byte (R120). -/
theorem serialBit_of_eighth {s : State} (b : Bool) (h : s.sel = true) (hcnt : s.bitcnt = 7) :
    serialBit b s = { fifoPush (shiftIn s.sr b) s with sr := shiftIn s.sr b, bitcnt := 0 } := by
  simp [serialBit, State.byteEnds, h, hcnt, fifoPush]

/-- Fewer bits than the byte still needs are shifted in and counted. -/
theorem foldl_serialBit_of_running (bits : List Bool) {s : State} (h : s.sel = true)
    (hcnt : s.bitcnt + bits.length < 8) :
    bits.foldl (fun t b => serialBit b t) s = { s with
      sr := bits.foldl shiftIn s.sr, bitcnt := s.bitcnt + bits.length } := by
  induction bits generalizing s with
  | nil => rfl
  | cons b rest ih =>
    rw [List.length_cons] at hcnt
    rw [List.foldl_cons, serialBit_of_running b h (by omega), ih]
    · simp only [List.foldl_cons, List.length_cons, Nat.add_assoc, Nat.add_comm 1]
    · exact h
    · simp only
      omega

theorem foldl_serialBit_of_unselected (bits : List Bool) {s : State} (h : s.sel = false) :
    bits.foldl (fun t b => serialBit b t) s = s := by
  induction bits with
  | nil => rfl
  | cons b rest ih => rw [List.foldl_cons, serialBit_of_unselected b h, ih]

/-- Eight bits are seven and the one that completes the byte. -/
theorem foldl_serialBit_byteBits (v : Byte) {s : State} (h : s.sel = true) (hcnt : s.bitcnt = 0) :
    (byteBits v).foldl (fun t b => serialBit b t) s = { fifoPush v s with sr := v } := by
  obtain ⟨first, last, hlen, hbits⟩ : ∃ first last, first.length = 7 ∧ byteBits v = first ++ [last] :=
    ⟨(byteBits v).dropLast, v.getLsbD 0, rfl, rfl⟩
  have hv : shiftIn (first.foldl shiftIn s.sr) last = v := by
    have hfold := shiftIn_byteBits s.sr v
    rwa [hbits, List.foldl_append] at hfold
  rw [hbits, List.foldl_append, foldl_serialBit_of_running first h (by omega), List.foldl_cons, List.foldl_nil,
    serialBit_of_eighth]
  · simp only [hv]
    rw [← hcnt]
    rfl
  · exact h
  · simp only
    omega

/-! ### The statements -/

/-- Settles O13, for `RXB` and `FifoPush`, which are the same push. -/
theorem arrivingByteIsQueuedOrMarked : Obligations.ArrivingByteIsQueuedOrMarked := by
  intro v s
  rw [exec_rxb, exec_fifoPush]
  refine ⟨fun hroom => ?room, fun hfull => ?full⟩
  case room => simp only [fifoPush_of_room v hroom, and_self]
  case full => simp only [fifoPush_of_full v hfull, and_self]

/-- Settles O14, by whether the line is selected, the bit count and the room. -/
theorem serialBitIsShiftedInWhileSelected : Obligations.SerialBitIsShiftedInWhileSelected := by
  intro b s sr
  have hsr : sr = shiftIn s.sr b := (shiftIn_eq_ofNat s.sr b).symm
  rw [exec_sbit, hsr]
  refine ⟨fun hsel => ?unselected, fun hsel hcnt => ?running, fun hsel hcnt hroom => ?room,
    fun hsel hcnt hfull => ?full⟩
  case unselected => rw [serialBit_of_unselected b hsel]
  case running => rw [serialBit_of_running b hsel hcnt]
  case room => rw [serialBit_of_eighth b hsel hcnt, fifoPush_of_room _ hroom]
  case full => rw [serialBit_of_eighth b hsel hcnt, fifoPush_of_full _ hfull]

/-- Settles O15: both are the chip select, at its two levels. -/
theorem chipSelectRestartsTheBitCount : Obligations.ChipSelectRestartsTheBitCount :=
  fun s => ⟨exec_csa s, exec_csd s⟩

/-- Settles O16, from the fold of eight bits over a selected and over an unselected line. -/
theorem eightBitsMakeOneByte : Obligations.EightBitsMakeOneByte := by
  refine ⟨fun v s hsel hcnt => ?selected, fun v s hsel => ?unselected, fun v s => ⟨_, rfl⟩⟩
  case selected => exact ⟨fifoPush v s, exec_rxb v s, congrArg Host.Outcome.next (foldl_serialBit_byteBits v hsel hcnt)⟩
  case unselected => exact congrArg Host.Outcome.next (foldl_serialBit_of_unselected (byteBits v) hsel)

/-- Settles O17, the fold of the pushes over the frame's bytes. -/
theorem frameBytesAreQueuedInOrder : Obligations.FrameBytesAreQueuedInOrder := by
  intro bytes s
  have hlost : s.room < 36 ↔ s.cfg.fifoDepth < s.fifo.length + 36 := by
    unfold State.room
    omega
  have hexec : exec (.frame bytes) s = .next (bytes.toList.foldl (fun t v => fifoPush v t) s) := rfl
  rw [hexec, foldl_fifoPush, Vector.length_toList, decide_eq_decide.2 hlost]
  rfl

end Sys2Proof.Machine

/-! PROOFS. The dispatch of `STEP` (R88, R94) and the micro-steps of phases A, BAPPLY, BEND, CAPPLY and CIND (R126,
R144, R145, R157, R158). -/

namespace Sys2Proof.Machine

/-! ### The dispatch -/

/-- Where the state selects it, `STEP` is the micro-step of that name. -/
theorem exec_step_eq_instr {m : MicroStep} {s : State} (h : s.selected = m) : exec .step s = exec m.instr s := by
  rw [exec_step, exec_instr_of_selected h]

/-- Elsewhere the micro-step is refused (log 16). -/
theorem exec_instr_of_not_selected {m : MicroStep} {s : State} (h : m ≠ s.selected) :
    exec m.instr s = .refused (.notSelected m) :=
  (exec_microStep m s).trans (if_neg h.symm)

/-! ### The walk over the channels -/

section Walk

variable {s : State} (h : s.chidx.val < 8)

include h

theorem chidx_ne_last : s.chidx ≠ 8 := fun e => by simp [e] at h

theorem chidx_succ_val : (s.chidx + 1).val = s.chidx.val + 1 := next_val (chidx_ne_last h)

end Walk

theorem chidx_eq_last {s : State} (h : s.chidx.val = 8) : s.chidx = 8 := Fin.ext h

/-! ### The command forms (R82, log 17) -/

theorem readsCommand_iff {s : State} {v : Byte} :
    s.readsCommand v = true ↔ s.phase = .bapply ∧ s.actv[s.chidx] = v := by
  rw [State.readsCommand, Bool.and_eq_true, beq_iff_eq, beq_iff_eq, selected_eq_bapply]
  rfl

/-- Where `BAPPLY` reads the byte, a form with the byte's pulse is that `BAPPLY`. -/
theorem runCommand_of_reads {s : State} {v : Byte} {us : Nat} (hp : s.phase = .bapply) (hv : s.actv[s.chidx] = v)
    (hus : us = mapUs v) : runCommand v us s = exec .bapply s := by
  have hread := readsCommand_iff.2 ⟨hp, hv⟩
  have hbyte : s.commandByte = v := hv
  rw [exec_bapply hp, sequencerStep_of_selected (selected_eq_bapply.2 hp)]
  simp only [runCommand, hread, if_true, microEffect, hbyte, hus]

theorem runCommand_of_not_reads {s : State} {v : Byte} {us : Nat} (h : ¬(s.phase = .bapply ∧ s.actv[s.chidx] = v)) :
    runCommand v us s = .refused (.commandNotRead v) :=
  if_neg fun hread => h (readsCommand_iff.1 hread)

/-- What `BAPPLY` commands, when it reads `v`. -/
theorem exec_bapply_of_reads {s : State} {v : Byte} (hp : s.phase = .bapply) (hv : s.actv[s.chidx] = v) :
    ∃ t, exec .bapply s = .next t ∧ t.cmp = s.cmp.set s.chidx (mapUs v) :=
  ⟨sequencerStep s, exec_bapply hp, by rw [sequencerStep_bapply hp, hv]⟩

/-! ### The fault wave (R158) -/

theorem faultWave_eq (g : Config) (now : Nat) : faultWave g now = decide (now / g.faultHalfUs % 2 = 1) :=
  Bool.beq_eq_decide_eq _ _

/-- After half a period the wave has the other level. -/
theorem faultWave_add_half {g : Config} (h : 1 ≤ g.faultHalfUs) (now : Nat) :
    faultWave g (now + g.faultHalfUs) = !faultWave g now := by
  have hdiv : (now + g.faultHalfUs) / g.faultHalfUs = now / g.faultHalfUs + 1 := Nat.add_div_right now h
  rw [faultWave_eq, faultWave_eq, hdiv, ← decide_not, decide_eq_decide]
  omega

/-! ### The statements -/

/-- Settles O38: the named micro-step runs where its row selects it, and is then the sequencer's step. -/
theorem stepIsTheMicroStepOfItsRow : Obligations.StepIsTheMicroStepOfItsRow := fun s =>
  ⟨⟨sequencerStep s, exec_step s⟩,
    fun hp hf => exec_step_eq_instr (m := .drain) (selected_eq_drain.2 ⟨hp, hf⟩),
    fun hp hf => exec_step_eq_instr (m := .drainx) (selected_eq_drainx.2 ⟨hp, hf⟩),
    fun hp hf => exec_step_eq_instr (m := .svc) (selected_eq_svc.2 ⟨hp, hf⟩),
    fun hp hf => exec_step_eq_instr (m := .nosvc) (selected_eq_nosvc.2 ⟨hp, hf⟩),
    fun hp => exec_step_eq_instr (m := .bapply) (selected_eq_bapply.2 hp),
    fun hp => exec_step_eq_instr (m := .bend) (selected_eq_bend.2 hp),
    fun hp => exec_step_eq_instr (m := .wdg) (selected_eq_wdg.2 hp),
    fun hp => exec_step_eq_instr (m := .capply) (selected_eq_capply.2 hp),
    fun hp => exec_step_eq_instr (m := .cind) (selected_eq_cind.2 hp)⟩

/-- Settles O39: the selected one runs, the others are refused. -/
theorem exactlyOneMicroStepRuns : Obligations.ExactlyOneMicroStepRuns := fun s =>
  ⟨s.selected, ⟨sequencerStep s, exec_instr_of_selected rfl⟩, fun _ hm => exec_instr_of_not_selected hm⟩

/-- Settles O20, from the sequencer's step in the two states. -/
theorem drainxAndBendMoveThePhase : Obligations.DrainxAndBendMoveThePhase := by
  intro s
  refine ⟨fun hp hf => ?drainx, fun hp => ?bend⟩
  case drainx =>
    exact (exec_instr_of_selected (selected_eq_drainx.2 ⟨hp, hf⟩)).trans (congrArg _ (sequencerStep_drainx hp hf))
  case bend =>
    exact (exec_instr_of_selected (selected_eq_bend.2 hp)).trans (congrArg _ (sequencerStep_bend hp))

/-- Settles O25, by whether the channel is the last. -/
theorem bapplyMapsOneLatchedByte : Obligations.BapplyMapsOneLatchedByte := by
  intro s hp
  rw [exec_bapply hp, sequencerStep_bapply hp]
  refine ⟨fun hlt => ⟨s.chidx + 1, chidx_succ_val hlt, ?_⟩, fun hlast => ?_⟩
  · rw [if_neg (chidx_ne_last hlt), if_neg (chidx_ne_last hlt), ← hp]
  · rw [if_pos (chidx_eq_last hlast), if_pos (chidx_eq_last hlast)]

/-- Settles O26: each form's pulse is `Map` of its byte. -/
theorem commandFormsAreTheirBapply : Obligations.CommandFormsAreTheirBapply := by
  intro s
  refine ⟨fun hp hv => ?stop, fun v hne hp hv => ?drive, fun hnot => runCommand_of_not_reads hnot,
    fun v hnot => ?refused⟩
  case stop =>
    have hform : exec .cmdStop s = exec .bapply s := runCommand_of_reads hp hv rfl
    exact ⟨hform, hform ▸ exec_bapply_of_reads hp hv⟩
  case drive =>
    have hform : exec (.cmdDrive v) s = exec .bapply s :=
      (exec_cmdDrive hne s).trans (runCommand_of_reads hp hv (mapUs_eq_unclamped hne).symm)
    rw [hform, ← mapUs_eq_unclamped hne]
    exact ⟨rfl, exec_bapply_of_reads hp hv⟩
  case refused =>
    by_cases hne : v = 0#8
    · rw [hne, exec_cmdDrive_zero]
    · exact (exec_cmdDrive hne s).trans (runCommand_of_not_reads fun hread => hnot ⟨hne, hread⟩)

/-- Settles O28, by whether the channel is the last. -/
theorem capplyForcesOneChannelIdle : Obligations.CapplyForcesOneChannelIdle := by
  intro s hp
  have hexec : exec .capply s = .next (sequencerStep s) :=
    exec_instr_of_selected (m := .capply) (selected_eq_capply.2 hp)
  rw [hexec, sequencerStep_capply hp]
  refine ⟨fun hlt => ⟨s.chidx + 1, chidx_succ_val hlt, ?_⟩, fun hlast => ?_⟩
  · rw [if_neg (chidx_ne_last hlt), if_neg (chidx_ne_last hlt), ← hp]
  · rw [if_pos (chidx_eq_last hlast), if_pos (chidx_eq_last hlast)]

/-- Settles O29: the formula, and one more half period in the quotient. -/
theorem cindDrivesTheFaultWave : Obligations.CindDrivesTheFaultWave := by
  refine ⟨fun s hp => ?wave, fun g now hhalf => faultWave_add_half hhalf now⟩
  rw [← faultWave_eq, ← sequencerStep_cind hp]
  exact exec_instr_of_selected (m := .cind) (selected_eq_cind.2 hp)

end Sys2Proof.Machine

/-! PROOFS. The sync input (R140, R141): the handler on its two kinds of edge, and the levels that run it. -/

namespace Sys2Proof.Machine

theorem edgeHandler_of_due {s : State} (h : s.synccnt + 1 = 20) :
    edgeHandler s = { s with syncflag := true, status := !s.status, synccnt := 0 } := by
  simp [edgeHandler, State.heartbeatDue, h]

theorem edgeHandler_of_not_due {s : State} (h : s.synccnt + 1 ≠ 20) :
    edgeHandler s = { s with syncflag := true, synccnt := s.synccnt + 1 } := by
  have hdue : s.heartbeatDue = false := beq_eq_false_iff_ne.2 h
  simp [edgeHandler, hdue]

/-- A low-to-high transition runs the handler. -/
theorem syncLevel_of_rising {s : State} (h : s.synclvl = false) :
    syncLevel true s = { edgeHandler s with synclvl := true } := by
  simp [syncLevel, State.risingEdge, h]

/-- The high level again changes nothing. -/
theorem syncLevel_of_high {s : State} (h : s.synclvl = true) : syncLevel true s = s := by
  cases s
  simp_all [syncLevel, State.risingEdge]

theorem syncLevel_low (s : State) : syncLevel false s = { s with synclvl := false } := rfl

/-! ### The statements -/

/-- Settles O21, by whether the heartbeat is due. -/
theorem edgeHandlerFlagsCountsAndToggles : Obligations.EdgeHandlerFlagsCountsAndToggles := by
  intro s
  rw [exec_edgeHandler]
  exact ⟨fun hdue => congrArg _ (edgeHandler_of_due hdue), fun hnot => congrArg _ (edgeHandler_of_not_due hnot)⟩

/-- Settles O22, by the level and the remembered one. -/
theorem onlyARisingEdgeRunsTheHandler : Obligations.OnlyARisingEdgeRunsTheHandler := by
  intro s
  refine ⟨fun hlow => ⟨edgeHandler s, exec_edgeHandler s, ?_⟩, fun hhigh => ?_, ?_⟩
  · rw [exec_sync, syncLevel_of_rising hlow]
  · rw [exec_sync, syncLevel_of_high hhigh]
  · rw [exec_sync, syncLevel_low]

end Sys2Proof.Machine

/-! PROOFS. Pulses and time (R100 to R104, R113, R179, R180): the clamp and the mapper inside it, the counters over one
and over two advances, and the output within a period. -/

namespace Sys2Proof.Machine

/-! ### The clamp of `SetPulse` -/

theorem clampPulse_of_low {us : Nat} (h : us < 1000) : clampPulse us = 1000 := by
  simp only [clampPulse, IDLE_US, MAX_US]
  omega

theorem clampPulse_of_high {us : Nat} (h : 2000 < us) : clampPulse us = 2000 := by
  simp only [clampPulse, IDLE_US, MAX_US]
  omega

/-! ### `Map` is increasing (R113) -/

/-- One more in the byte is 3 or 4 more in the pulse, since 800 is between 3 and 4 times 255. -/
theorem mapUs_succ {v w : Byte} (hv : v ≠ 0#8) (hw : w.toNat = v.toNat + 1) :
    mapUs w = mapUs v + 3 ∨ mapUs w = mapUs v + 4 := by
  have hw0 : w ≠ 0#8 := fun e => by simp [e] at hw
  rw [mapUs_eq_unclamped hv, mapUs_eq_unclamped hw0, hw]
  omega

theorem mapUs_lt {v w : Byte} (h : v.toNat < w.toNat) : mapUs v < mapUs w := by
  have hw0 : w ≠ 0#8 := fun e => by simp [e] at h
  by_cases hv : v = 0#8
  · have hge := le_mapUs_of_ne_zero hw0
    rw [hv, mapUs_zero]
    omega
  · rw [mapUs_eq_unclamped hv, mapUs_eq_unclamped hw0]
    omega

/-! ### The counters -/

theorem pwmAdvance_cnt_get (d : Nat) (s : State) (c : Chan) :
    (pwmAdvance d s).cnt[c] = (s.cnt[c] + d) % s.cfg.pwmPeriodUs := by simp

theorem pwmAdvance_live_get (d : Nat) (s : State) (c : Chan) :
    (pwmAdvance d s).live[c] = if s.cfg.pwmPeriodUs ≤ s.cnt[c] + d then s.cmp[c] else s.live[c] := by simp

theorem advance_cnt_get (d : Nat) (s : State) (c : Chan) :
    (advance d s).cnt[c] = (s.cnt[c] + d) % s.cfg.pwmPeriodUs := pwmAdvance_cnt_get d s c

theorem advance_live_get (d : Nat) (s : State) (c : Chan) :
    (advance d s).live[c] = if s.cfg.pwmPeriodUs ≤ s.cnt[c] + d then s.cmp[c] else s.live[c] :=
  pwmAdvance_live_get d s c

theorem advance_eq (d : Nat) (s : State) :
    advance d s = { s with live := (advance d s).live, cnt := (advance d s).cnt, now := s.now + d } := rfl

/-- Two nine-element arrays with the same elements are one. -/
theorem nine_ext {α : Type} {v w : Nine α} (h : ∀ c : Chan, v[c] = w[c]) : v = w :=
  Vector.ext fun k hk => h ⟨k, hk⟩

/-- A counter below the period wraps in the first or in the second of two advances, or wraps in neither (R180). -/
theorem advance_advance {s : State} (h : ∀ c : Chan, s.cnt[c] < s.cfg.pwmPeriodUs) (a b : Nat) :
    advance b (advance a s) = advance (a + b) s := by
  have hcnt : (advance b (advance a s)).cnt = (advance (a + b) s).cnt := nine_ext fun c => by
    simp only [advance_cnt_get, advance_cfg, Nat.mod_add_mod, Nat.add_assoc]
  have hlive : (advance b (advance a s)).live = (advance (a + b) s).live := nine_ext fun c => by
    simp only [advance_live_get, advance_cnt_get, advance_cfg, advance_cmp]
    have hc := h c
    by_cases hwrap : s.cfg.pwmPeriodUs ≤ s.cnt[c] + a
    · have hsum : s.cfg.pwmPeriodUs ≤ s.cnt[c] + (a + b) := by omega
      simp only [hwrap, hsum, if_true, ite_self]
    · rw [Nat.mod_eq_of_lt (Nat.lt_of_not_le hwrap), Nat.add_assoc, if_neg hwrap]
  rw [advance_eq b (advance a s), advance_eq (a + b) s, hcnt, hlive, advance_now, Nat.add_assoc, advance_eq a s]

/-! ### The output (R104) -/

/-- Within the period that starts at a wrap, the output is high for the first `LIVE` microseconds. -/
theorem pwmOut_advance {s : State} {c : Chan} (hcnt : s.cnt[c] = 0) {d : Nat} (hd : d < s.cfg.pwmPeriodUs) :
    (advance d s).pwmOut c = decide (d < s.live[c]) := by
  rw [State.pwmOut, advance_cnt_get, advance_live_get, hcnt, Nat.zero_add, Nat.mod_eq_of_lt hd,
    if_neg (Nat.not_le_of_lt hd)]

/-- Of the first `n` numbers, `m` are below `m`. -/
theorem length_filter_range_lt {m n : Nat} (h : m ≤ n) :
    ((List.range n).filter fun d => decide (d < m)).length = m := by
  rw [← List.Ico.zero_bot, List.Ico.filter_lt, min_eq_right h, List.Ico.length, Nat.sub_zero]

/-! ### The statements -/

/-- Settles O30, by the three ranges of the clamp and the range of the channel. -/
theorem setPulseClampsIntoTheCommand : Obligations.SetPulseClampsIntoTheCommand := by
  intro i us s
  refine ⟨fun hi => ?inRange, fun hi => exec_setPulse_of_ge us s hi⟩
  have hexec := exec_setPulse ⟨i, hi⟩ us s
  refine ⟨fun hlow => ?_, fun hge hle => ?_, fun hhigh => ?_⟩
  · rw [hexec, setPulse, clampPulse_of_low hlow]
  · rw [hexec, setPulse, clampPulse_of_range hge hle]
  · rw [hexec, setPulse, clampPulse_of_high hhigh]

/-- Settles O33: `Map` is increasing, and inside the range that the clamp leaves alone. -/
theorem mapIsStrictlyIncreasing : Obligations.MapIsStrictlyIncreasing := by
  refine ⟨mapUs_zero, by decide, fun v w h => mapUs_lt h, fun v w hv hw => mapUs_succ hv hw, fun v hv => ?range,
    fun v i s => ?stored⟩
  case range => exact ⟨Nat.le_trans (by decide) (le_mapUs_of_ne_zero hv), (mapUs_range v).2⟩
  case stored => rw [exec_setPulse, setPulse, clampPulse_mapUs]

/-- Settles O34, channel by channel. -/
theorem pwmAdvanceLatchesAtTheWrap : Obligations.PwmAdvanceLatchesAtTheWrap := by
  intro d s
  refine ⟨pwmAdvance d.toNat s, exec_pwmAdvance d s, rfl, fun c => ⟨pwmAdvance_cnt_get d.toNat s c, fun hlt => ?_,
    fun hge => ?_⟩⟩
  · exact (pwmAdvance_live_get d.toNat s c).trans (if_neg (Nat.not_le_of_lt hlt))
  · exact (pwmAdvance_live_get d.toNat s c).trans (if_pos hge)

/-- Settles O35, by whether time passes. -/
theorem advMovesTimeAndTheCounters : Obligations.AdvMovesTimeAndTheCounters := fun d s =>
  ⟨fun hd => ⟨pwmAdvance d.toNat s, exec_pwmAdvance d s, exec_adv hd s⟩, fun hz => hz ▸ exec_adv_zero s⟩

/-- Settles O36: the sum is in range, so it is the sum of the numbers, and one advance is the other two. -/
theorem advIsAdditive : Obligations.AdvIsAdditive := by
  intro a b s ha hb hsum hcnt
  have htoNat : (a + b).toNat = a.toNat + b.toNat := BitVec.toNat_add_of_lt hsum
  have hab : a + b ≠ 0#28 := by
    rintro e
    rw [e, BitVec.toNat_ofNat, Nat.zero_mod] at htoNat
    exact ha (BitVec.eq_of_toNat_eq (by rw [BitVec.toNat_ofNat]; omega))
  rw [exec_adv hab, htoNat, ← advance_advance hcnt, runOps_cons, exec_adv ha, chain_next, runOps_cons, exec_adv hb,
    chain_next, runOps_nil]

/-- Settles O37: the output at each instant of the period, and the count of the high ones. -/
theorem pulseIsHighForLiveMicroseconds : Obligations.PulseIsHighForLiveMicroseconds := by
  intro s c hcnt hlive
  refine ⟨?count, fun d hne hlt => ⟨advance d.toNat s, exec_adv hne s, pwmOut_advance hcnt hlt⟩⟩
  rw [List.filter_congr fun d hd => pwmOut_advance hcnt (List.mem_range.1 hd)]
  exact length_filter_range_lt hlive

end Sys2Proof.Machine

/-! PROOFS. Who writes what (R20, R69, R70, R205): the registers that each operation of a run leaves alone. -/

namespace Sys2Proof.Machine

@[simp] theorem resolvesTo_step (m : MicroStep) (s : State) : resolvesTo m .step s = (s.selected == m) := rfl

theorem resolvesTo_of_ne_step {i : Instr} (h : i ≠ .step) (m : MicroStep) (s : State) : resolvesTo m i s = false := by
  rw [resolvesTo, beq_eq_false_iff_ne.2 h, Bool.false_and]

/-! ### The two ends of the FIFO -/

theorem fifoPushed_eq (s : State) (v : Byte) :
    s.fifoPushed v = if s.fifo.length < s.cfg.fifoDepth then s.fifo ++ [v] else s.fifo := by
  split
  · next h => exact fifoPushed_of_room v h
  · next h => exact fifoPushed_of_full v (Nat.le_of_not_lt h)

@[simp] theorem pushedBy_rxb (v : Byte) (s : State) : pushedBy (.rxb v) s = [v] := rfl

@[simp] theorem pushedBy_sbit (b : Bool) (s : State) :
    pushedBy (.sbit b) s = if s.byteEnds then [shiftIn s.sr b] else [] := rfl

theorem poppedBy_of_not_drain {i : Instr} {s : State} (h : resolvesTo .drain i s = false) : poppedBy i s = [] := by
  rw [poppedBy, h]
  rfl

theorem poppedBy_of_drain {s : State} {b : Byte} {rest : List Byte} (hp : s.phase = .a) (hf : s.fifo = b :: rest) :
    poppedBy .step s = [b] := by
  have hsel : s.selected = .drain := selected_eq_drain.2 ⟨hp, by simp [hf]⟩
  rw [poppedBy, resolvesTo_step, hsel, hf]
  rfl

/-- The sequencer pops the byte at the head or leaves the FIFO alone. -/
theorem poppedBy_append_fifo (s : State) : s.fifo = poppedBy .step s ++ (sequencerStep s).fifo := by
  by_cases hd : s.selected = .drain
  · obtain ⟨hp, hne⟩ := selected_eq_drain.1 hd
    obtain ⟨b, rest, hf⟩ := List.exists_cons_of_ne_nil hne
    rw [poppedBy_of_drain hp hf, sequencerStep_drain hp hf, hf]
    rfl
  · rw [poppedBy_of_not_drain (i := .step) (beq_eq_false_iff_ne.2 hd), sequencerStep_fifo hd, List.nil_append]

/-! ### The clock -/

theorem RunStep.now_le {i : Instr} {s t : State} (h : RunStep s i t) : s.now ≤ t.now := by
  cases h with
  | adv d => exact Nat.le_add_right s.now d.toNat
  | _ => simp

/-! ### The statements -/

/-- Settles O41: the sequencer's step has its frame register by register, and no other operation touches one. -/
theorem onlyTheSequencerWritesItsRegisters : Obligations.OnlyTheSequencerWritesItsRegisters := by
  intro i s t hi h
  cases RunStep.of_exec hi h with
  | step =>
    simp only [resolvesTo_step, beq_eq_false_iff_ne]
    exact ⟨fun hd => ⟨sequencerStep_pend hd, sequencerStep_lastbyte hd⟩, sequencerStep_fp,
      fun hs => ⟨sequencerStep_actv hs, sequencerStep_lastsync hs⟩, sequencerStep_cmp, fun hne => absurd rfl hne⟩
  | _ => simp

/-- Settles O42: each operation's push and pop, at the two ends of the FIFO. -/
theorem onlyTheSerialLineWritesTheReceiver : Obligations.OnlyTheSerialLineWritesTheReceiver := by
  intro i s t hi h
  have hpop : resolvesTo .drain i s = false → poppedBy i s = [] := poppedBy_of_not_drain
  cases RunStep.of_exec hi h with
  | step =>
    exact ⟨fun _ => ⟨sequencerStep_sr s, fun _ _ => sequencerStep_bitcnt s⟩, fun _ _ => sequencerStep_sel s,
      fun _ _ => sequencerStep_ovr s, fun hovr => (sequencerStep_ovr s).trans hovr, fun _ _ hne => absurd rfl hne,
      fun hne => absurd rfl hne, fun _ => poppedBy_append_fifo s, hpop⟩
  | rxb v =>
    exact ⟨fun _ => ⟨rfl, fun _ _ => rfl⟩, fun _ _ => rfl, fun _ hne => absurd rfl (hne v),
      fun hovr => by simp [State.ovrPushed, hovr], fun _ hne => absurd rfl (hne v), fun _ => fifoPushed_eq s v,
      nofun, hpop⟩
  | sbit b =>
    refine ⟨fun hne => absurd rfl (hne b), fun _ _ => rfl, fun hne => absurd rfl (hne b), fun hovr => ?ovr,
      fun hne => absurd rfl (hne b), fun _ => ?fifo, nofun, hpop⟩
    case ovr => simp [State.ovrPushed, hovr]
    case fifo => cases hb : s.byteEnds <;> simp [hb, fifoPushed_eq]
  | csa =>
    exact ⟨fun _ => ⟨rfl, fun hne => absurd rfl hne⟩, fun hne => absurd rfl hne, fun _ _ => rfl, id,
      fun _ _ _ => rfl, fun _ => by simp [pushedBy], nofun, hpop⟩
  | csd =>
    exact ⟨fun _ => ⟨rfl, fun _ hne => absurd rfl hne⟩, fun _ hne => absurd rfl hne, fun _ _ => rfl, id,
      fun _ _ _ => rfl, fun _ => by simp [pushedBy], nofun, hpop⟩
  | sync l => simpa [pushedBy] using hpop
  | adv d => simpa [pushedBy] using hpop

/-- Settles O43: `SYNC` sets and never clears the flag, `SVC` clears it, and nothing else touches these registers. -/
theorem sharedRegistersHaveTheirWriters : Obligations.SharedRegistersHaveTheirWriters := by
  intro i s t hi h
  cases RunStep.of_exec hi h with
  | step =>
    simp only [resolvesTo_step, beq_eq_false_iff_ne, beq_iff_eq]
    refine ⟨fun _ => ⟨sequencerStep_synccnt s, sequencerStep_synclvl s, sequencerStep_syncflag, sequencerStep_status⟩,
      fun hset hclear => ?cleared, fun hs => ?svc⟩
    case cleared =>
      by_contra hs
      rw [sequencerStep_syncflag hs, hset] at hclear
      cases hclear
    case svc =>
      rw [sequencerStep_of_selected hs]
      rfl
  | sync l =>
    refine ⟨fun hne => absurd rfl (hne l), fun hset hclear => ?_, nofun⟩
    simp [hset] at hclear
  | _ =>
    refine ⟨fun _ => by simp, fun hset hclear => ?_, nofun⟩
    simp [hset] at hclear

/-- Settles O44: time's registers are in the frame of every operation but `ADV`, which adds to the clock. -/
theorem onlyTimeMovesTheClockAndThePulses : Obligations.OnlyTimeMovesTheClockAndThePulses := by
  intro i s t hi h
  have hstep := RunStep.of_exec hi h
  refine ⟨fun hne => ?_, hstep.now_le⟩
  cases hstep with
  | adv d => exact absurd rfl (hne d)
  | _ => simp

end Sys2Proof.Machine

/-! PROOFS. Runs over every interleaving (R8, R31, R61, R124, R148, R182): that they run, what the popped bytes leave in
`PEND`, and the order of arrival. -/

namespace Sys2Proof.Machine

/-! ### Infinite runs -/

/-- The state after an operation that is enabled. -/
def stateAfter (i : Instr) (s : State) : State :=
  match exec i s with
  | .next t => t
  | .fault _ => s
  | .refused _ => s

theorem exec_stateAfter {i : Instr} (hi : isTraceOp i = true) (s : State) : exec i s = .next (stateAfter i s) := by
  obtain ⟨t, ht⟩ := exec_of_isTraceOp hi s
  rw [stateAfter, ht]

/-- The states an infinite sequence of operations goes through. -/
def statesFrom (ops : Nat → Instr) (s : State) : Nat → State
  | 0 => s
  | n + 1 => stateAfter (ops n) (statesFrom ops s n)

/-! ### The popped bytes in `PEND` (R124, R127, R128) -/

/-- `FP` and `PEND` after the byte `b` was popped. -/
def storeByte (g : Config) (slice : Nat × Nine Byte) (b : Byte) : Nat × Nine Byte :=
  (nextPosition slice.1, storePending g slice.1 b slice.2)

/-- Unless it is a `BEND`, an operation changes `FP` and `PEND` by the byte it pops. -/
theorem RunStep.stores {i : Instr} {s t : State} (h : RunStep s i t) (hb : resolvesElse .bend i s = true) :
    (t.fp, t.pend) = (poppedBy i s).foldl (storeByte s.cfg) (s.fp, s.pend) := by
  cases h with
  | step =>
    by_cases hd : s.selected = .drain
    · obtain ⟨hp, hne⟩ := selected_eq_drain.1 hd
      obtain ⟨b, rest, hf⟩ := List.exists_cons_of_ne_nil hne
      rw [poppedBy_of_drain hp hf, sequencerStep_drain hp hf]
      rfl
    · have hbend : s.selected ≠ .bend := by simpa [resolvesElse] using hb
      rw [poppedBy_of_not_drain (i := .step) (beq_eq_false_iff_ne.2 hd), sequencerStep_fp hd hbend,
        sequencerStep_pend hd]
      rfl
  | sync l => simp [poppedBy_of_not_drain (resolvesTo_of_ne_step (i := .sync l) nofun .drain s)]
  | _ => rfl

theorem Runs.stores {ops : List Instr} {s t : State} (h : Runs ops s t)
    (hb : everyOp (resolvesElse .bend) ops s = true) :
    (t.fp, t.pend) = (popped ops s).foldl (storeByte s.cfg) (s.fp, s.pend) := by
  induction h with
  | nil => rfl
  | cons first _ ih =>
    rw [everyOp_cons first.exec_eq, Bool.and_eq_true] at hb
    rw [popped, collect_cons first.exec_eq, List.foldl_append, ← first.stores hb.1, ← first.cfg_eq]
    exact ih hb.2

theorem foldl_storeByte_fst (g : Config) (bytes : List Byte) {slice : Nat × Nine Byte} (h : slice.1 ≤ 36) :
    (bytes.foldl (storeByte g) slice).1 = min 36 (slice.1 + bytes.length) := by
  induction bytes generalizing slice with
  | nil => simpa using h
  | cons b rest ih =>
    have hnext : (storeByte g slice b).1 = min 36 (slice.1 + 1) := by
      simp only [storeByte, nextPosition, FRAME_BYTES]
      split <;> omega
    rw [List.foldl_cons, ih (by omega), hnext, List.length_cons]
    omega

/-- Channel `i` takes the byte popped at its position, when that position comes. -/
theorem foldl_storeByte_snd (g : Config) (bytes : List Byte) (slice : Nat × Nine Byte) (i : Chan) :
    (bytes.foldl (storeByte g) slice).2[i] =
      if slice.1 ≤ g.nodeId.val * 9 + i.val then
        (bytes[g.nodeId.val * 9 + i.val - slice.1]?).getD slice.2[i]
      else slice.2[i] := by
  induction bytes generalizing slice with
  | nil => simp
  | cons b rest ih =>
    obtain ⟨fp, pend⟩ := slice
    have hpos : g.nodeId.val * 9 + i.val < 36 := by omega
    rw [List.foldl_cons, ih]
    simp only [storeByte, storePending_get]
    generalize g.nodeId.val * 9 + i.val = pos at hpos
    have hnext : fp < 36 → nextPosition fp = fp + 1 := fun h => if_pos h
    rcases Nat.lt_trichotomy fp pos with hlt | heq | hgt
    · obtain ⟨k, rfl⟩ := Nat.exists_eq_add_of_lt hlt
      have hle : fp ≤ fp + k + 1 := by omega
      have hle' : fp + 1 ≤ fp + k + 1 := by omega
      have hsub : fp + k + 1 - fp = k + 1 := by omega
      have hsub' : fp + k + 1 - (fp + 1) = k := by omega
      rw [hnext (by omega), if_pos hle, if_pos hle', if_neg hlt.ne, hsub, hsub', List.getElem?_cons_succ]
    · subst heq
      rw [hnext hpos, if_neg (Nat.not_succ_le_self fp), if_pos rfl, if_pos (le_refl fp), Nat.sub_self]
      rfl
    · have hge : fp ≤ nextPosition fp := by
        unfold nextPosition
        split <;> omega
      rw [if_neg (by omega), if_neg hgt.ne', if_neg (by omega)]

/-- `FP` and `PEND` from frame position 0, by the popped bytes. -/
theorem Runs.slice_of_popped {ops : List Instr} {s t : State} (h : Runs ops s t)
    (hb : everyOp (resolvesElse .bend) ops s = true) (hfp : s.fp = 0) :
    t.fp = min 36 (popped ops s).length ∧
    ∀ i : Chan, t.pend[i] = ((popped ops s)[s.cfg.nodeId.val * 9 + i.val]?).getD s.pend[i] := by
  have hslice := h.stores hb
  rw [hfp] at hslice
  have hfst := foldl_storeByte_fst s.cfg (popped ops s) (slice := (0, s.pend)) (Nat.zero_le 36)
  have hsnd := foldl_storeByte_snd s.cfg (popped ops s) (0, s.pend)
  rw [← hslice] at hfst hsnd
  exact ⟨hfst.trans (by rw [Nat.zero_add]), fun i => (hsnd i).trans (if_pos (Nat.zero_le _))⟩

/-! ### The order of arrival (R31) -/

theorem ovrPushed_eq_false {s : State} :
    s.ovrPushed = false ↔ s.ovr = false ∧ s.fifo.length < s.cfg.fifoDepth := by
  simp [State.ovrPushed, State.fifoFull]

/-- Once set, `OVR` stays set up to the next power-on (R39). -/
theorem RunStep.ovr_before {i : Instr} {s t : State} (h : RunStep s i t) (ho : t.ovr = false) : s.ovr = false := by
  cases h with
  | rxb v => exact (ovrPushed_eq_false.1 ho).1
  | sbit b =>
    rw [serialBit_ovr] at ho
    split at ho
    · exact (ovrPushed_eq_false.1 ho).1
    · exact ho
  | sync l => simpa using ho
  | step => simpa using ho
  | _ => exact ho

theorem Runs.ovr_before {ops : List Instr} {s t : State} (h : Runs ops s t) (ho : t.ovr = false) : s.ovr = false := by
  induction h with
  | nil => exact ho
  | cons first _ ih => exact first.ovr_before (ih ho)

/-- Without overrun an operation pushes at the tail what it offers and pops at the head. -/
theorem RunStep.queues {i : Instr} {s t : State} (h : RunStep s i t) (ho : t.ovr = false) :
    s.fifo ++ pushedBy i s = poppedBy i s ++ t.fifo := by
  cases h with
  | rxb v => exact (fifoPushed_of_room v (ovrPushed_eq_false.1 ho).2).symm
  | sbit b =>
    rw [serialBit_ovr] at ho
    rw [serialBit_fifo, pushedBy_sbit, poppedBy_of_not_drain (i := .sbit b) rfl, List.nil_append]
    split_ifs at ho ⊢
    · exact (fifoPushed_of_room _ (ovrPushed_eq_false.1 ho).2).symm
    · exact List.append_nil s.fifo
  | step => exact (List.append_nil s.fifo).trans (poppedBy_append_fifo s)
  | sync l => simp [pushedBy, poppedBy_of_not_drain (i := .sync l) rfl]
  | _ => exact List.append_nil s.fifo

theorem Runs.queues {ops : List Instr} {s t : State} (h : Runs ops s t) (ho : t.ovr = false) :
    s.fifo ++ pushed ops s = popped ops s ++ t.fifo := by
  induction h with
  | nil => exact List.append_nil _
  | @cons i ops s u t first rest ih =>
    rw [pushed, popped, collect_cons first.exec_eq, collect_cons first.exec_eq, ← List.append_assoc,
      first.queues (rest.ovr_before ho), List.append_assoc, List.append_assoc]
    exact congrArg (poppedBy i s ++ ·) (ih ho)

/-! ### The statements -/

/-- Settles O40: a finite run has no operation that stops it, and an infinite one goes through its states one by one. -/
theorem everyRunCompletes : Obligations.EveryRunCompletes := by
  refine ⟨fun ops s hops => exists_runOps hops s, fun ops s hstart hops => ⟨statesFrom ops s, rfl, hstart, hops, ?_⟩⟩
  exact fun n => exec_stateAfter (hops n) (statesFrom ops s n)

/-- Settles O45, from the fold of the popped bytes. -/
theorem poppedBytesFillTheSliceByPosition : Obligations.PoppedBytesFillTheSliceByPosition := by
  intro ops s t hops hb hfp hrun
  rw [Nat.mul_comm 9]
  exact (Runs.of_runOps hops hrun).slice_of_popped hb hfp

/-- Settles O46, operation by operation. -/
theorem fifoKeepsTheOrderOfArrival : Obligations.FifoKeepsTheOrderOfArrival :=
  fun _ _ _ hops hrun ho => (Runs.of_runOps hops hrun).queues ho

/-- Settles O47: `SVC` copies `PEND`, whose 36 positions were all popped, and the popped bytes are the first of those
held and offered. -/
theorem snapshotHoldsTheNodesSliceOfTheFrame : Obligations.SnapshotHoldsTheNodesSliceOfTheFrame := by
  intro ops s t hops hb hfp hrun hsel hfull
  have hruns := Runs.of_runOps hops hrun
  obtain ⟨hlen, hpend⟩ := hruns.slice_of_popped hb hfp
  refine ⟨takeSnapshot t, (exec_step t).trans (congrArg _ (sequencerStep_of_selected hsel)), fun i => ?_⟩
  have hpos : s.cfg.nodeId.val * 9 + i.val < (popped ops s).length := by omega
  have hactv : some (takeSnapshot t).actv[i] = (popped ops s)[s.cfg.nodeId.val * 9 + i.val]? := by
    rw [takeSnapshot_actv, hpend i, List.getElem?_eq_getElem hpos, Option.getD_some]
  refine ⟨hactv, fun ho => ?_⟩
  rw [hruns.queues ho, List.getElem?_append_left hpos, hactv]

end Sys2Proof.Machine

/-! PROOFS. The two walks over the channels under every interleaving (R147, R161, R240): the nine commands of one
snapshot, and the way of a stale node to the idle pulse. -/

namespace Sys2Proof.Machine

/-! ### What leaves the sequencer alone -/

/-- The sequencer is where it was, with its commands, its latched bytes and its time stamp. -/
structure SequencerKept (s t : State) : Prop where
  phase : t.phase = s.phase
  chidx : t.chidx = s.chidx
  cmp : t.cmp = s.cmp
  actv : t.actv = s.actv
  lastsync : t.lastsync = s.lastsync

theorem RunStep.sequencerKept {i : Instr} {s t : State} (h : RunStep s i t) (hi : i ≠ .step) : SequencerKept s t := by
  cases h with
  | step => exact absurd rfl hi
  | _ => constructor <;> simp

/-! ### A walk -/

/-- A walk in phase `p` over the channels, which writes the commands `w` and ends in phase `done`, has written `k`. -/
structure Walk (w : Nine Nat) (p done : Phase) (k : Nat) (s : State) : Prop where
  written : ∀ c : Chan, c.val < k → s.cmp[c] = w[c]
  running : k < 9 → s.phase = p ∧ s.chidx.val = k
  ended : k = 9 → s.phase = done

section Walk

variable {w : Nine Nat} {p done : Phase} {k : Nat} {s t : State}

theorem Walk.start (hp : s.phase = p) (hz : s.chidx = 0) : Walk w p done 0 s :=
  ⟨fun c hc => absurd hc (Nat.not_lt_zero c), fun _ => ⟨hp, congrArg Fin.val hz⟩, nofun⟩

theorem Walk.kept (h : Walk w p done k s) (hkept : SequencerKept s t) : Walk w p done k t := by
  obtain ⟨hphase, hchidx, hcmp, -, -⟩ := hkept
  exact ⟨hcmp ▸ h.written, hphase ▸ hchidx ▸ h.running, hphase ▸ h.ended⟩

/-- One more channel. -/
theorem Walk.next (h : Walk w p done k s) (hk : k < 9) (hcmp : t.cmp = s.cmp.set s.chidx w[s.chidx])
    (hchidx : t.chidx = if s.chidx = 8 then 0 else s.chidx + 1) (hphase : t.phase = if s.chidx = 8 then done else p) :
    Walk w p done (k + 1) t := by
  obtain ⟨-, hidx⟩ := h.running hk
  refine ⟨fun c hc => ?written, fun hlt => ?running, fun hend => ?ended⟩
  case written =>
    rw [hcmp]
    exact cmp_set_upTo (fun c hc => h.written c (hidx ▸ hc)) (by rw [Fin.le_def]; omega)
  case running =>
    have hchan : s.chidx.val < 8 := by omega
    rw [hphase, hchidx, if_neg (chidx_ne_last hchan), if_neg (chidx_ne_last hchan), chidx_succ_val hchan, hidx]
    exact ⟨rfl, rfl⟩
  case ended =>
    have hlast : s.chidx = 8 := chidx_eq_last (by omega)
    rw [hphase, if_pos hlast]

theorem Walk.next_bapply {bytes : Nine Byte} (h : Walk (bytes.map mapUs) .bapply .bend k s) (hk : k < 9)
    (hactv : s.actv = bytes) : Walk (bytes.map mapUs) .bapply .bend (k + 1) (sequencerStep s) := by
  have hstep := sequencerStep_bapply (h.running hk).1
  refine h.next hk ?_ (by rw [hstep]) (by rw [hstep])
  rw [hstep, hactv]
  simp

theorem Walk.next_capply (h : Walk (Vector.replicate 9 1000) .capply .cind k s) (hk : k < 9) :
    Walk (Vector.replicate 9 1000) .capply .cind (k + 1) (sequencerStep s) := by
  have hstep := sequencerStep_capply (h.running hk).1
  refine h.next hk ?_ (by rw [hstep]) (by rw [hstep])
  rw [hstep]
  simp

end Walk

/-! ### The nine commands of a snapshot (R147) -/

/-- The steps that a walk still needs take it to its end, whatever comes between them. -/
theorem Runs.walk_bapply {ops : List Instr} {s t : State} (h : Runs ops s t) {bytes : Nine Byte} {k : Nat}
    (hwalk : Walk (bytes.map mapUs) .bapply .bend k s) (hactv : s.actv = bytes) (hcount : k + ops.count .step = 9) :
    Walk (bytes.map mapUs) .bapply .bend 9 t ∧ t.actv = bytes := by
  induction h generalizing k with
  | nil =>
    obtain rfl : k = 9 := hcount
    exact ⟨hwalk, hactv⟩
  | @cons i ops s u t first rest ih =>
    by_cases hi : i = .step
    · subst hi
      cases first
      rw [List.count_cons_self] at hcount
      have hsel : s.selected ≠ .svc := fun e => by
        have hp := (hwalk.running (by omega)).1
        simp [(selected_eq_svc.1 e).1] at hp
      exact ih (hwalk.next_bapply (by omega) hactv) ((sequencerStep_actv hsel).trans hactv) (by omega)
    · rw [List.count_cons_of_ne hi] at hcount
      have hkept := first.sequencerKept hi
      exact ih (hwalk.kept hkept) (hkept.actv.trans hactv) hcount

/-! ### The way to the idle pulse (R161) -/

/-- The node is stale, and the safe-state action has taken `j` of its steps: the check, and `CAPPLY` nine times. -/
def ForcingIdle : Nat → State → Prop
  | 0, s => s.stale = true ∧ s.phase = .c
  | k + 1, s => s.stale = true ∧ Walk (Vector.replicate 9 1000) .capply .cind k s

/-- The node is stale and commands the idle pulse on every channel, and no mapped pulse is on its way. -/
structure HeldIdle (s : State) : Prop where
  stale : s.stale = true
  no_bapply : s.phase ≠ .bapply
  idle : ∀ c : Chan, s.cmp[c] = 1000

theorem forcingIdle_stale {j : Nat} {s : State} (h : ForcingIdle j s) : s.stale = true := by
  cases j <;> exact h.1

/-- Without servicing a stale node stays stale. -/
theorem RunStep.stale {i : Instr} {s t : State} (h : RunStep s i t) (hsvc : resolvesElse .svc i s = true)
    (hs : s.stale = true) : t.stale = true := by
  have hnow := h.now_le
  have hlast : t.lastsync = s.lastsync := by
    by_cases hi : i = .step
    · subst hi
      cases h
      exact sequencerStep_lastsync (by simpa [resolvesElse] using hsvc)
    · exact (h.sequencerKept hi).lastsync
  rw [stale_eq_true] at hs ⊢
  omega

theorem forcingIdle_phase {j : Nat} {s : State} (hj : j < 10) (h : ForcingIdle j s) :
    s.phase = .c ∨ s.phase = .capply := by
  cases j with
  | zero => exact .inl h.2
  | succ k => exact .inr (h.2.running (by omega)).1

/-- Outside phase B nothing is serviced. -/
theorem resolvesElse_svc_of_phase {s : State} (h : s.phase ≠ .b) (i : Instr) : resolvesElse .svc i s = true := by
  have hsel : s.selected ≠ .svc := fun e => h (selected_eq_svc.1 e).1
  simp [resolvesElse, resolvesTo, hsel]

theorem forcingIdle_step {j : Nat} {s : State} (hj : j < 10) (h : ForcingIdle j s) :
    ForcingIdle (j + 1) (sequencerStep s) := by
  have hp : s.phase ≠ .b := by
    rcases forcingIdle_phase hj h with hp | hp <;> simp [hp]
  have hstale := RunStep.step.stale (resolvesElse_svc_of_phase hp .step) (forcingIdle_stale h)
  cases j with
  | zero =>
    obtain ⟨hs, hp⟩ := h
    exact ⟨hstale, .start (by rw [sequencerStep_wdg_of_stale hp hs]) (by rw [sequencerStep_wdg_of_stale hp hs])⟩
  | succ k => exact ⟨hstale, h.2.next_capply (by omega)⟩

/-- Other operations leave the action where it is. -/
theorem forcingIdle_kept {j : Nat} {i : Instr} {s t : State} (hstep : RunStep s i t) (hi : i ≠ .step)
    (h : ForcingIdle j s) : ForcingIdle j t := by
  have hkept := hstep.sequencerKept hi
  have hstale := hstep.stale (by simp [resolvesElse, resolvesTo_of_ne_step hi]) (forcingIdle_stale h)
  cases j with
  | zero => exact ⟨hstale, hkept.phase.trans h.2⟩
  | succ k => exact ⟨hstale, h.2.kept hkept⟩

/-- Its ten steps done, the node is idle, with `CIND` to come. -/
theorem forcingIdle_ten {s : State} (h : ForcingIdle 10 s) : s.phase = .cind ∧ HeldIdle s := by
  obtain ⟨hstale, hwalk⟩ := h
  have hp : s.phase = .cind := hwalk.ended rfl
  refine ⟨hp, hstale, by simp [hp], fun c => ?_⟩
  simpa using hwalk.written c c.isLt

/-- Only `SVC` starts a walk that commands mapped pulses. -/
theorem sequencerStep_phase_ne_bapply {s : State} (hs : s.selected ≠ .svc) (hp : s.phase ≠ .bapply) :
    (sequencerStep s).phase ≠ .bapply := by
  cases hm : s.selected <;> rw [sequencerStep_of_selected hm]
  case drain => exact fun e => hp ((drainByte_phase s).symm.trans e)
  case svc => exact absurd hm hs
  case bapply => exact absurd (selected_eq_bapply.1 hm) hp
  case wdg =>
    simp only [microEffect, watchdogCheck_phase]
    split <;> nofun
  case capply =>
    simp only [microEffect, forceIdle_phase]
    split
    · nofun
    · exact hp
  all_goals nofun

/-- Outside BAPPLY the sequencer commands the idle pulse or none. -/
theorem sequencerStep_cmp_idle {s : State} (hp : s.phase ≠ .bapply) (h : ∀ c : Chan, s.cmp[c] = 1000) (c : Chan) :
    (sequencerStep s).cmp[c] = 1000 := by
  have hnb : s.selected ≠ .bapply := fun e => hp (selected_eq_bapply.1 e)
  by_cases hc : s.selected = .capply
  · rw [sequencerStep_capply (selected_eq_capply.1 hc)]
    simp only [Fin.getElem_fin, Vector.getElem_set]
    split
    · rfl
    · exact h c
  · rw [sequencerStep_cmp hnb hc]
    exact h c

theorem RunStep.heldIdle {i : Instr} {s t : State} (h : RunStep s i t) (hsvc : resolvesElse .svc i s = true)
    (hs : HeldIdle s) : HeldIdle t := by
  have hstale := h.stale hsvc hs.stale
  by_cases hi : i = .step
  · subst hi
    cases h
    have hns : s.selected ≠ .svc := by simpa [resolvesElse] using hsvc
    exact ⟨hstale, sequencerStep_phase_ne_bapply hns hs.no_bapply, sequencerStep_cmp_idle hs.no_bapply hs.idle⟩
  · have hkept := h.sequencerKept hi
    exact ⟨hstale, hkept.phase ▸ hs.no_bapply, hkept.cmp ▸ hs.idle⟩

theorem Runs.heldIdle {ops : List Instr} {s t : State} (h : Runs ops s t)
    (hsvc : everyOp (resolvesElse .svc) ops s = true) (hs : HeldIdle s) : HeldIdle t := by
  induction h with
  | nil => exact hs
  | cons first _ ih =>
    rw [everyOp_cons first.exec_eq, Bool.and_eq_true] at hsvc
    exact ih hsvc.2 (first.heldIdle hsvc.1 hs)

theorem Runs.heldIdle_of_forcing {ops : List Instr} {s t : State} (h : Runs ops s t)
    (hsvc : everyOp (resolvesElse .svc) ops s = true) {j : Nat} (hj : j ≤ 10) (hs : ForcingIdle j s)
    (hcount : 10 ≤ j + ops.count .step) : HeldIdle t := by
  induction h generalizing j with
  | nil =>
    obtain rfl : j = 10 := le_antisymm hj hcount
    exact (forcingIdle_ten hs).2
  | @cons i ops s u t first rest ih =>
    rcases Nat.lt_or_eq_of_le hj with hlt | rfl
    · rw [everyOp_cons first.exec_eq, Bool.and_eq_true] at hsvc
      by_cases hi : i = .step
      · subst hi
        cases first
        rw [List.count_cons_self] at hcount
        exact ih hsvc.2 hlt (forcingIdle_step hlt hs) (by omega)
      · rw [List.count_cons_of_ne hi] at hcount
        exact ih hsvc.2 hj (forcingIdle_kept first hi hs) hcount
    · exact (Runs.cons first rest).heldIdle hsvc (forcingIdle_ten hs).2

/-! ### Time under a bound between steps (R240) -/

/-- Each step starts a new gap, and no gap is longer than the bound. -/
theorem Runs.now_le {ops : List Instr} {s t : State} (h : Runs ops s t) {bound gap : Nat} (hgap : gap ≤ bound)
    (hbound : stepGapsWithin bound gap ops = true) : t.now + gap ≤ s.now + (ops.count .step + 1) * bound := by
  induction h generalizing gap with
  | nil => simpa using hgap
  | @cons i ops s u t first rest ih =>
    rw [stepGapsWithin, Bool.and_eq_true, decide_eq_true_eq] at hbound
    have hrest := ih hbound.1 hbound.2
    cases first with
    | step =>
      rw [sequencerStep_now] at hrest
      simp only [gapAfter, Nat.add_zero] at hrest
      rw [List.count_cons_self, Nat.add_mul _ 1 bound]
      omega
    | adv d =>
      rw [advance_now] at hrest
      simp only [gapAfter] at hrest
      rw [List.count_cons_of_ne (by nofun)]
      omega
    | sync l =>
      rw [List.count_cons_of_ne (by nofun)]
      simpa [gapAfter] using hrest
    | _ =>
      rw [List.count_cons_of_ne (by nofun)]
      exact hrest

/-! ### The statements -/

/-- Settles O48: after `SVC` the walk is at channel 0, and nine steps take it to its end. -/
theorem ninePulsesComeFromOneSnapshot : Obligations.NinePulsesComeFromOneSnapshot := by
  intro ops s hsel hops hcount
  obtain ⟨t, ht⟩ := exists_runs hops (takeSnapshot s)
  obtain ⟨hwalk, hactv⟩ := ht.walk_bapply (bytes := s.pend) (k := 0) (.start rfl rfl) rfl (by omega)
  have hrun : runOps (.step :: ops) s = .next t :=
    runOps_cons_eq_next.2 ⟨takeSnapshot s, congrArg _ (sequencerStep_of_selected hsel), ht.runOps_eq⟩
  refine ⟨t, hrun, hwalk.ended rfl, hactv, fun i => ?_⟩
  simpa using hwalk.written i i.isLt

/-- Settles O49: ten steps from the check, then nothing that commands another pulse. -/
theorem staleNodeGoesIdleAndStaysIdle : Obligations.StaleNodeGoesIdleAndStaysIdle := by
  intro ops s hp hs hops hsvc hcount
  obtain ⟨t, ht⟩ := exists_runs hops s
  have hidle := ht.heldIdle_of_forcing (j := 0) hsvc (Nat.zero_le 10) ⟨hs, hp⟩ (by omega)
  exact ⟨t, ht.runOps_eq, hidle.idle⟩

/-- Settles O58: the bound on the run's time, and ten steps of the safe-state action within it. -/
theorem safeStateTimeIsBoundedBySteps : Obligations.SafeStateTimeIsBoundedBySteps := by
  refine ⟨fun ops s t bound hops hbound hrun => ?time, fun ops s t bound hp hs hops hbound hsvc hrun hcount => ?idle⟩
  case time => exact (Runs.of_runOps hops hrun).now_le (Nat.zero_le bound) hbound
  case idle =>
    have hruns := Runs.of_runOps hops hrun
    have htime := hruns.now_le (Nat.zero_le bound) hbound
    rw [hcount] at htime
    exact ⟨htime, (hruns.heldIdle_of_forcing (j := 0) hsvc (Nat.zero_le 10) ⟨hs, hp⟩ (by omega)).idle⟩

end Sys2Proof.Machine

/-! PROOFS. The safe state as liveness (R12, R161, R240, log 31): in a fair run the safe-state action of a stale node
takes its ten steps and `CIND`, and what they leave stays. -/

namespace Sys2Proof.Machine

/-- The fault pattern after one more operation. -/
theorem faultDriven_concat {driven : Bool} {ops : List Instr} {i : Instr} {s t u : State}
    (h : runOps ops s = .next t) (hi : exec i t = .next u) :
    faultDriven driven (ops ++ [i]) s = faultDrivenAfter (faultDriven driven ops s) i t := by
  induction ops generalizing driven s with
  | nil =>
    cases h
    simp only [List.nil_append, faultDriven, hi]
  | cons j ops ih =>
    obtain ⟨v, hv, hrest⟩ := runOps_cons_eq_next.1 h
    simp only [List.cons_append, faultDriven, hv]
    exact ih hrest

theorem InfiniteRun.isRun_firstOps {ops : Nat → Instr} {states : Nat → State} (h : InfiniteRun ops states) {k : Nat}
    (hk : 0 < k) : isRun ((List.range k).map ops) = true := by
  obtain ⟨k, rfl⟩ := Nat.exists_eq_succ_of_ne_zero hk.ne'
  rw [List.range_succ_eq_map, List.map_cons, isRun, h.starts, Bool.and_eq_true]
  exact ⟨rfl, List.all_eq_true.2 fun i hi => by
    obtain ⟨m, -, rfl⟩ := List.mem_map.1 hi
    exact h.traceOps m⟩

section Fair

variable {ops : Nat → Instr} {states : Nat → State} {n : Nat} (hrun : InfiniteRun ops states)
  (hquiet : ∀ k, n ≤ k → ops k ≠ .rst ∧ resolvesElse .svc (ops k) (states k) = true)

include hrun hquiet

/-- From `n` on the run has no power cycle. -/
theorem runStep_after {k : Nat} (hk : n ≤ k) : RunStep (states k) (ops k) (states (k + 1)) := by
  have hop := hrun.traceOps k
  rw [isTraceOp, Bool.or_eq_true, beq_iff_eq, or_iff_left (hquiet k hk).1] at hop
  exact .of_exec hop (hrun.follows k)

theorem heldIdle_after {m k : Nat} (hm : n ≤ m) (hk : m ≤ k) (h : HeldIdle (states m)) : HeldIdle (states k) := by
  induction k, hk using Nat.le_induction with
  | base => exact h
  | succ k hk ih =>
    have hnk : n ≤ k := hm.trans hk
    exact (runStep_after hrun hquiet hnk).heldIdle (hquiet k hnk).2 ih

/-- Once `CIND` has driven, the fault pattern stays. -/
theorem faultDriven_after {m k : Nat} (hm : n ≤ m) (hk : m ≤ k)
    (h : faultDriven false ((List.range m).map ops) (states 0) = true) :
    faultDriven false ((List.range k).map ops) (states 0) = true := by
  induction k, hk using Nat.le_induction with
  | base => exact h
  | succ k hk ih =>
    obtain ⟨hrst, hsvc⟩ := hquiet k (hm.trans hk)
    rw [List.range_succ, List.map_append, List.map_singleton, faultDriven_concat (hrun.firstOps k) (hrun.follows k), ih,
      faultDrivenAfter, hsvc, bne_iff_ne.2 hrst]
    exact Bool.or_true _

variable (hfair : stepRecurs ops)

include hfair

/-- The action stays where it is up to the next `STEP`, which comes. -/
theorem exists_step_forcing {j m : Nat} (hm : n ≤ m) (h : ForcingIdle j (states m)) :
    ∃ k, m ≤ k ∧ ops k = .step ∧ ForcingIdle j (states k) := by
  obtain ⟨k, hmk, hk⟩ := hfair m
  induction hmk using Nat.decreasingInduction with
  | self => exact ⟨k, le_refl k, hk, h⟩
  | of_succ m hmk ih =>
    by_cases hi : ops m = .step
    · exact ⟨m, le_refl m, hi, h⟩
    · obtain ⟨l, hl, hstep, hforce⟩ :=
        ih (Nat.le_succ_of_le hm) (forcingIdle_kept (runStep_after hrun hquiet hm) hi h)
      exact ⟨l, Nat.le_of_succ_le hl, hstep, hforce⟩

/-- Step by step the action comes to its `CIND`. -/
theorem exists_forcing {j : Nat} (hj : j ≤ 10) (h : ForcingIdle 0 (states n)) :
    ∃ k, n ≤ k ∧ ops k = .step ∧ ForcingIdle j (states k) := by
  induction j with
  | zero => exact exists_step_forcing hrun hquiet hfair (le_refl n) h
  | succ j ih =>
    obtain ⟨k, hk, hstep, hforce⟩ := ih (Nat.le_of_succ_le hj)
    have hnext := runStep_after hrun hquiet hk
    rw [hstep] at hnext
    have hforce' : ForcingIdle (j + 1) (states (k + 1)) := by
      rw [Host.Outcome.next.inj (hnext.exec_eq.symm.trans (exec_step _))]
      exact forcingIdle_step hj hforce
    obtain ⟨l, hl, hstep', hforce''⟩ := exists_step_forcing hrun hquiet hfair (Nat.le_succ_of_le hk) hforce'
    exact ⟨l, (Nat.le_succ_of_le hk).trans hl, hstep', hforce''⟩

end Fair

/-! ### The statement -/

/-- Settles O60: from the `CIND` on, the node is in the safe state. -/
theorem fairRunReachesTheSafeState : Obligations.FairRunReachesTheSafeState := by
  intro ops states n hrun hfair hp hs hquiet
  obtain ⟨m, hm, hstep, hforce⟩ := exists_forcing hrun hquiet hfair (le_refl 10) ⟨hs, hp⟩
  obtain ⟨hcind, hidle⟩ := forcingIdle_ten hforce
  have hdriven : faultDriven false ((List.range (m + 1)).map ops) (states 0) = true := by
    rw [List.range_succ, List.map_append, List.map_singleton, faultDriven_concat (hrun.firstOps m) (hrun.follows m),
      faultDrivenAfter, hstep, resolvesTo_step, selected_eq_cind.2 hcind]
    rfl
  refine ⟨m + 1, fun k hk => ?_⟩
  have hheld := heldIdle_after hrun hquiet hm (Nat.le_of_succ_le hk) hidle
  exact ⟨hrun.isRun_firstOps (Nat.lt_of_lt_of_le m.succ_pos hk), hrun.firstOps k,
    faultDriven_after hrun hquiet (Nat.le_succ_of_le hm) hk hdriven, hheld.stale, hheld.idle⟩

end Sys2Proof.Machine

/-! PROOFS. One iteration of the main loop (R93, R159, R160, R183, R199): the steps inside it, those of a servicing, of a
stale node and of a fresh one, and its length. -/

namespace Sys2Proof.Machine

/-! ### Steps inside an iteration -/

/-- `n` steps lead from one state to another, and none of them ends the iteration. -/
inductive Inner : Nat → State → State → Prop
  | refl (s : State) : Inner 0 s s
  | step {n : Nat} {s t : State} (first : endsIteration s = false) (rest : Inner n (sequencerStep s) t) :
    Inner (n + 1) s t

theorem Inner.trans {m n : Nat} {s t u : State} (h : Inner m s t) (h' : Inner n t u) : Inner (m + n) s u := by
  induction h with
  | refl => rwa [Nat.zero_add]
  | step first _ ih => rw [Nat.add_right_comm]; exact .step first (ih h')

theorem Inner.iterateUpTo_eq {n fuel : Nat} {s t : State} (h : Inner n s t) (hend : endsIteration t = true)
    (hfuel : n < fuel) : iterateUpTo fuel s = some (n + 1, sequencerStep t) := by
  induction h generalizing fuel with
  | refl =>
    obtain ⟨fuel, rfl⟩ := Nat.exists_eq_succ_of_ne_zero hfuel.ne'
    rw [iterateUpTo, if_pos hend]
  | step first _ ih =>
    obtain ⟨fuel, rfl⟩ := Nat.exists_eq_succ_of_ne_zero (Nat.ne_zero_of_lt hfuel)
    rw [iterateUpTo, if_neg (by simp [first]), ih hend (Nat.lt_of_succ_lt_succ hfuel), Option.map_some]

theorem Inner.iteration_eq {n : Nat} {s t : State} (h : Inner n s t) (hend : endsIteration t = true)
    (hn : n < s.fifo.length + 23) : iteration s = some (n + 1, sequencerStep t) :=
  h.iterateUpTo_eq hend hn

/-- Only the check and `CIND` can end an iteration (R93). -/
theorem endsIteration_of_phase {s : State} (hc : s.phase ≠ .c) (hcind : s.phase ≠ .cind) :
    endsIteration s = false := by simp [endsIteration, hc, hcind]

theorem endsIteration_of_fresh {s : State} (hp : s.phase = .c) (hs : s.stale = false) : endsIteration s = true := by
  simp [endsIteration, hp, sequencerStep_wdg_of_fresh hp hs]

theorem endsIteration_of_cind {s : State} (hp : s.phase = .cind) : endsIteration s = true := by
  simp [endsIteration, hp, sequencerStep_cind hp]

theorem Inner.single {s t : State} (hc : s.phase ≠ .c) (hcind : s.phase ≠ .cind) (ht : sequencerStep s = t) :
    Inner 1 s t := .step (endsIteration_of_phase hc hcind) (ht ▸ .refl _)

/-! ### Nine steps of a walk -/

/-- The state with the walk in phase `p` at channel `k` and the commands `v`. -/
def State.walking (s : State) (p : Phase) (k : Chan) (v : Nine Nat) : State :=
  { s with phase := p, chidx := k, cmp := v }

section Walking

variable {s : State} {p done : Phase} {w : Nine Nat} (hc : p ≠ .c) (hcind : p ≠ .cind)
  (hstep : ∀ (k : Chan) (v : Nine Nat), sequencerStep (s.walking p k v) =
    s.walking (if k = 8 then done else p) (if k = 8 then 0 else k + 1) (v.set k w[k]))

include hc hcind hstep

/-- A walk at channel `k`, with the channels before it written, has `9 - k` steps to go. -/
theorem inner_walking_from (j : Nat) (k : Chan) (v : Nine Nat) (hk : k.val + j = 8)
    (hv : ∀ c : Chan, c < k → v[c] = w[c]) : Inner (j + 1) (s.walking p k v) (s.walking done 0 w) := by
  have hend : endsIteration (s.walking p k v) = false := endsIteration_of_phase hc hcind
  have hset : ∀ c : Chan, c ≤ k → (v.set k w[k])[c] = w[c] := fun c hle => cmp_set_upTo hv hle
  induction j generalizing k v with
  | zero =>
    have hlast : k = 8 := Fin.ext hk
    have hall : v.set k w[k] = w := nine_ext fun c => hset c (hlast ▸ Fin.le_last c)
    have hlaststep := hstep k v
    rw [hall, if_pos hlast, if_pos hlast] at hlaststep
    exact .step hend (hlaststep ▸ .refl _)
  | succ j ih =>
    have hne : k ≠ 8 := fun e => by simp [e] at hk
    have hval := next_val hne
    have hnext := hstep k v
    rw [if_neg hne, if_neg hne] at hnext
    have hbefore : ∀ c : Chan, c < k + 1 → (v.set k w[k])[c] = w[c] := fun c hlt => hset c (le_of_lt_next hne hlt)
    refine .step hend ?_
    rw [hnext]
    exact ih (k + 1) _ (by omega) hbefore (endsIteration_of_phase hc hcind) fun c hle => cmp_set_upTo hbefore hle

theorem inner_walking (v : Nine Nat) : Inner 9 (s.walking p 0 v) (s.walking done 0 w) :=
  inner_walking_from hc hcind hstep 8 0 v rfl fun c h => absurd h (Fin.not_lt_zero c)

end Walking

/-- The nine `BAPPLY` of a servicing. -/
theorem inner_bapply (s : State) (v : Nine Nat) :
    Inner 9 (s.walking .bapply 0 v) (s.walking .bend 0 (Vector.ofFn fun c : Chan => mapUs s.actv[c])) := by
  refine inner_walking (p := .bapply) nofun nofun (fun k v => ?_) v
  have hw : (Vector.ofFn fun c : Chan => mapUs s.actv[c])[k] = mapUs s.actv[k] := by simp
  rw [sequencerStep_bapply rfl, hw]
  rfl

/-- The nine `CAPPLY` of the safe-state action. -/
theorem inner_capply (s : State) (v : Nine Nat) :
    Inner 9 (s.walking .capply 0 v) (s.walking .cind 0 (Vector.replicate 9 1000)) := by
  refine inner_walking (p := .capply) nofun nofun (fun k v => ?_) v
  have hw : (Vector.replicate 9 1000)[k] = 1000 := by simp
  rw [sequencerStep_capply rfl, hw]
  rfl

/-! ### The steps before the one that ends an iteration -/

/-- The bytes in the FIFO are drained one by one. -/
theorem inner_drains {s : State} (hp : s.phase = .a) :
    ∃ t, Inner s.fifo.length s t ∧ t.phase = .a ∧ t.fifo = [] ∧ t.syncflag = s.syncflag ∧ t.stale = s.stale := by
  generalize hf : s.fifo = bytes
  induction bytes generalizing s with
  | nil => exact ⟨s, .refl s, hp, hf, rfl, rfl⟩
  | cons b rest ih =>
    have hstep := sequencerStep_drain hp hf
    obtain ⟨t, hinner, hpt, hft, hflag, hstale⟩ := ih (s := sequencerStep s) (by rw [hstep]; exact hp) (by rw [hstep])
    refine ⟨t, .step (endsIteration_of_phase (by simp [hp]) (by simp [hp])) hinner, hpt, hft, ?_, ?_⟩
    · rw [hflag, hstep]
    · rw [hstale, hstep]
      rfl

/-- The state after an iteration that services an edge and drains nothing. -/
def State.serviced (s : State) : State := { s with
  syncflag := false, lastsync := s.now, actv := s.pend, chidx := 0, fp := 0
  cmp := Vector.ofFn fun c : Chan => mapUs s.pend[c] }

section Empty

variable {s : State} (hp : s.phase = .a) (hf : s.fifo = [])

include hp hf

theorem inner_drainx : Inner 1 s { s with phase := .b } :=
  .single (by simp [hp]) (by simp [hp]) (sequencerStep_drainx hp hf)

/-- `DRAINX`, `SVC`, nine `BAPPLY` and `BEND`. -/
theorem inner_service (hflag : s.syncflag = true) : Inner 12 s { s.serviced with phase := .c } := by
  have hsvc : Inner 1 { s with phase := .b } (takeSnapshot { s with phase := .b }) :=
    .single nofun nofun (sequencerStep_svc rfl hflag)
  have hwalk := inner_bapply (takeSnapshot { s with phase := .b }) s.cmp
  have hbend : Inner 1 ((takeSnapshot { s with phase := .b }).walking .bend 0 s.serviced.cmp)
      { s.serviced with phase := .c } := .single nofun nofun (sequencerStep_bend rfl)
  exact ((inner_drainx hp hf).trans hsvc).trans (hwalk.trans hbend)

theorem inner_nosvc (hflag : s.syncflag = false) : Inner 2 s { s with phase := .c } :=
  (inner_drainx hp hf).trans (.single nofun nofun (sequencerStep_nosvc rfl hflag))

/-- `DRAINX`, `NOSVC`, `WDG` and nine `CAPPLY`. -/
theorem inner_forceIdle (hflag : s.syncflag = false) (hs : s.stale = true) :
    Inner 12 s (s.walking .cind 0 (Vector.replicate 9 1000)) := by
  have hwdg : sequencerStep { s with phase := .c } = s.walking .capply 0 s.cmp := sequencerStep_wdg_of_stale rfl hs
  have hnot : endsIteration { s with phase := .c } = false := by
    simp [endsIteration, hwdg, State.walking]
  have hcheck : Inner 1 { s with phase := .c } (s.walking .capply 0 s.cmp) := .step hnot (hwdg ▸ .refl _)
  exact ((inner_nosvc hp hf hflag).trans hcheck).trans (inner_capply s s.cmp)

/-! ### The iteration of a state with an empty FIFO -/

theorem exists_inner_service (hflag : s.syncflag = true) :
    ∃ u, Inner 12 s u ∧ endsIteration u = true ∧ sequencerStep u = s.serviced := by
  have hfresh : State.stale { s.serviced with phase := .c } = false :=
    stale_eq_false.2 ((Nat.sub_self s.now).trans_le (Nat.zero_le _))
  have hlast : sequencerStep { s.serviced with phase := .c } = { s.serviced with phase := .a } :=
    sequencerStep_wdg_of_fresh rfl hfresh
  refine ⟨_, inner_service hp hf hflag, endsIteration_of_fresh rfl hfresh, hlast.trans ?_⟩
  rw [← hp]
  rfl

theorem exists_inner_stale (hflag : s.syncflag = false) (hs : s.stale = true) :
    ∃ u, Inner 12 s u ∧ endsIteration u = true ∧ sequencerStep u = { s with
      chidx := 0, cmp := Vector.replicate 9 1000, status := faultWave s.cfg s.now } := by
  have hlast := sequencerStep_cind (s := s.walking .cind 0 (Vector.replicate 9 1000)) rfl
  refine ⟨_, inner_forceIdle hp hf hflag hs, endsIteration_of_cind rfl, hlast.trans ?_⟩
  rw [← hp]
  rfl

theorem exists_inner_fresh (hflag : s.syncflag = false) (hs : s.stale = false) :
    ∃ u, Inner 2 s u ∧ endsIteration u = true ∧ sequencerStep u = s := by
  have hlast : sequencerStep { s with phase := .c } = { s with phase := .a } := sequencerStep_wdg_of_fresh rfl hs
  refine ⟨_, inner_nosvc hp hf hflag, endsIteration_of_fresh rfl hs, hlast.trans ?_⟩
  rw [← hp]

theorem iteration_of_service (hflag : s.syncflag = true) : iteration s = some (13, s.serviced) := by
  obtain ⟨u, hinner, hend, hlast⟩ := exists_inner_service hp hf hflag
  rw [hinner.iteration_eq hend (by omega), hlast]

end Empty

/-! ### The statements -/

/-- Settles O53: the drains, and one of the three endings. -/
theorem iterationLengthIsFixed : Obligations.IterationLengthIsFixed := by
  intro s hp
  obtain ⟨t, hdrains, hpt, hft, hflag, hstale⟩ := inner_drains hp
  have hend : ∃ n u, Inner n t u ∧ endsIteration u = true ∧ n + 1 = (if s.syncflag || s.stale then 13 else 3) ∧
      (sequencerStep u).phase = .a ∧ (sequencerStep u).fifo = [] := by
    cases hf : t.syncflag with
    | true =>
      obtain ⟨u, hinner, hends, hlast⟩ := exists_inner_service hpt hft hf
      refine ⟨12, u, hinner, hends, ?_, hlast ▸ hpt, hlast ▸ hft⟩
      simp [← hflag, hf]
    | false =>
      cases hs : t.stale with
      | true =>
        obtain ⟨u, hinner, hends, hlast⟩ := exists_inner_stale hpt hft hf hs
        refine ⟨12, u, hinner, hends, ?_, hlast ▸ hpt, hlast ▸ hft⟩
        simp [← hstale, hs]
      | false =>
        obtain ⟨u, hinner, hends, hlast⟩ := exists_inner_fresh hpt hft hf hs
        refine ⟨2, u, hinner, hends, ?_, hlast ▸ hpt, hlast ▸ hft⟩
        simp [← hflag, ← hstale, hf, hs]
  obtain ⟨n, u, hinner, hends, hn, hpu, hfu⟩ := hend
  refine ⟨sequencerStep u, hpu, hfu, ?_⟩
  have hle : n < 23 := by split at hn <;> omega
  rw [(hdrains.trans hinner).iteration_eq hends (by omega), ← hn, Nat.add_assoc]

/-- Settles O54: the servicing comes before the check, which then finds the node fresh. -/
theorem flaggedEdgeWinsOverTheWatchdog : Obligations.FlaggedEdgeWinsOverTheWatchdog :=
  fun _ hp hf hflag => iteration_of_service hp hf hflag

/-- Settles O55, by whether the check finds the node stale. -/
theorem safeStateWritesCommandsAndStatusAlone : Obligations.SafeStateWritesCommandsAndStatusAlone := by
  intro s hp hf hflag
  refine ⟨fun hs => ?stale, fun hs => ?fresh⟩
  case stale =>
    obtain ⟨u, hinner, hend, hlast⟩ := exists_inner_stale hp hf hflag hs
    rw [hinner.iteration_eq hend (by omega), hlast]
  case fresh =>
    obtain ⟨u, hinner, hend, hlast⟩ := exists_inner_fresh hp hf hflag hs
    rw [hinner.iteration_eq hend (by omega), hlast]

end Sys2Proof.Machine

/-! PROOFS. Edges and byte streams (R62, R129, R145, R146, R166, R178, R209, R234): an edge with the input low, bytes
that are each followed by the sequencer's turn, on one node and on four. -/

namespace Sys2Proof.Machine

/-! ### Edges -/

/-- With the input low at the start, `EDGE` is one run of the handler. -/
theorem runOps_opsEdge {s : State} (h : s.synclvl = false) : runOps opsEdge s = .next (edgeHandler s) := by
  have hedge : syncLevel false (syncLevel true s) = edgeHandler s := by
    rw [syncLevel_low, syncLevel_of_rising h]
    simp only [← h]
    rfl
  rw [opsEdge, runOps_cons, exec_sync, chain_next, runOps_cons, exec_sync, chain_next, runOps_nil, hedge]

/-- A whole iteration is a run of its steps (R93). -/
theorem runOps_of_iterateUpTo {fuel n : Nat} {s t : State} (h : iterateUpTo fuel s = some (n, t)) :
    runOps (List.replicate n .step) s = .next t := by
  induction fuel generalizing n s with
  | zero => cases h
  | succ fuel ih =>
    rw [iterateUpTo] at h
    split at h
    · cases h
      rfl
    · obtain ⟨r, hr, hrt⟩ := Option.map_eq_some_iff.1 h
      cases hrt
      have hrest := ih hr
      exact hrest

/-- An edge and the iteration that services it, at the top of the loop. -/
theorem runOps_edge_service {s : State} (hp : s.phase = .a) (hf : s.fifo = []) (hlow : s.synclvl = false) :
    runOps (opsEdge ++ List.replicate 13 .step) s = .next (edgeHandler s).serviced := by
  rw [runOps_append, runOps_opsEdge hlow, chain_next]
  exact runOps_of_iterateUpTo (iteration_of_service (s := edgeHandler s) hp hf rfl)

/-! ### A byte and a turn of the sequencer -/

/-- The byte `b` arrives, and the sequencer has one turn. -/
def relay (s : State) (b : Byte) : State := sequencerStep (fifoPush b s)

theorem runOps_opsDrained (bytes : List Byte) (s : State) :
    runOps (opsDrained bytes) s = .next (bytes.foldl relay s) := by
  induction bytes generalizing s with
  | nil => rfl
  | cons b rest ih => exact ih (relay s b)

/-- In phase A with room, the turn drains one byte, and the FIFO is as long as before. -/
theorem relay_of_room {s : State} (b : Byte) (hp : s.phase = .a) (hroom : s.fifo.length < s.cfg.fifoDepth) :
    ∃ head rest, s.fifo ++ [b] = head :: rest ∧ relay s b = { s with
      fifo := rest, lastbyte := s.now, fp := nextPosition s.fp, pend := storePending s.cfg s.fp head s.pend } := by
  have hne : s.fifo ++ [b] ≠ [] := List.append_ne_nil_of_right_ne_nil s.fifo (List.cons_ne_nil b [])
  obtain ⟨head, rest, hf⟩ := List.exists_cons_of_ne_nil hne
  refine ⟨head, rest, hf, ?_⟩
  have hdrain := sequencerStep_drain (s := { s with fifo := s.fifo ++ [b] }) hp hf
  rw [relay, fifoPush_of_room b hroom, hdrain]

/-- What a stream of drained bytes leaves alone. -/
structure StreamKept (s t : State) : Prop where
  cfg : t.cfg = s.cfg
  phase : t.phase = s.phase
  length : t.fifo.length = s.fifo.length
  syncflag : t.syncflag = s.syncflag
  lastsync : t.lastsync = s.lastsync
  cmp : t.cmp = s.cmp
  actv : t.actv = s.actv
  ovr : t.ovr = s.ovr

theorem streamKept_relay {s : State} (b : Byte) (hp : s.phase = .a) (hroom : s.fifo.length < s.cfg.fifoDepth) :
    StreamKept s (relay s b) := by
  obtain ⟨head, rest, hf, hrelay⟩ := relay_of_room b hp hroom
  have hlen : rest.length = s.fifo.length := by
    have hlength := congrArg List.length hf
    simpa using hlength.symm
  rw [hrelay]
  exact ⟨rfl, rfl, hlen, rfl, rfl, rfl, rfl, rfl⟩

theorem streamKept_foldl {s : State} (bytes : List Byte) (hp : s.phase = .a)
    (hroom : s.fifo.length < s.cfg.fifoDepth) : StreamKept s (bytes.foldl relay s) := by
  induction bytes generalizing s with
  | nil => exact ⟨rfl, rfl, rfl, rfl, rfl, rfl, rfl, rfl⟩
  | cons b rest ih =>
    have hfirst := streamKept_relay b hp hroom
    have hrest := ih (s := relay s b) (hfirst.phase.trans hp) (by rw [hfirst.length, hfirst.cfg]; exact hroom)
    exact ⟨hrest.cfg.trans hfirst.cfg, hrest.phase.trans hfirst.phase, hrest.length.trans hfirst.length,
      hrest.syncflag.trans hfirst.syncflag, hrest.lastsync.trans hfirst.lastsync, hrest.cmp.trans hfirst.cmp,
      hrest.actv.trans hfirst.actv, hrest.ovr.trans hfirst.ovr⟩

/-- From an empty FIFO each byte is stored as it comes. -/
theorem foldl_relay_of_empty {s : State} (bytes : List Byte) (hp : s.phase = .a) (hf : s.fifo = [])
    (hdepth : 1 ≤ s.cfg.fifoDepth) : ∃ last, bytes.foldl relay s = { s with
      lastbyte := last
      fp := (bytes.foldl (storeByte s.cfg) (s.fp, s.pend)).1
      pend := (bytes.foldl (storeByte s.cfg) (s.fp, s.pend)).2 } := by
  induction bytes generalizing s with
  | nil => exact ⟨s.lastbyte, rfl⟩
  | cons b rest ih =>
    obtain ⟨head, tail, hcons, hrelay⟩ := relay_of_room b hp (by rw [hf]; exact hdepth)
    obtain ⟨rfl, rfl⟩ : b = head ∧ [] = tail := by simpa [hf] using hcons
    have hempty : relay s b = { s with
        lastbyte := s.now, fp := nextPosition s.fp, pend := storePending s.cfg s.fp b s.pend } := by
      rw [hrelay, ← hf]
    rw [List.foldl_cons, hempty]
    exact ih hp hf hdepth

/-- A whole frame from position 0 leaves the node its slice. -/
theorem foldl_storeByte_frame (g : Config) (bytes : Vector Byte 36) (pend : Nine Byte) (i : Chan) (pos : Fin 36)
    (hpos : pos.val = g.nodeId.val * 9 + i.val) :
    (bytes.toList.foldl (storeByte g) (0, pend)).2[i] = bytes[pos] := by
  rw [foldl_storeByte_snd, if_pos (Nat.zero_le _), Nat.sub_zero, ← hpos]
  simp

/-! ### Four nodes -/

/-- Four nodes set one after the other, each from its own state. -/
theorem set_each (v : Vector State 4) (f : State → State) :
    (((v.set 0 (f v[0])).set 1 (f v[1])).set 2 (f v[2])).set 3 (f v[3]) = v.map f := by
  ext k hk
  interval_cases k <;> simp

theorem nodesOwn_of_exec {i : Instr} {f : State → State} (h : ∀ s, exec i s = .next (f s)) (k : Fin 4) (n : Nodes) :
    nodesOwn k i n = .next ⟨n.node.set k (f n.node[k])⟩ := by
  rw [nodesOwn, h, chain_next]

/-- A shared stimulus with one effect on every state has it on all four nodes. -/
theorem nodesExec_shared {i : Instr} {f : State → State} (h : ∀ s, exec i s = .next (f s)) (n : Nodes) :
    nodesExec (.shared i) n = .next ⟨n.node.map f⟩ := by
  rw [← set_each]
  simp [nodesExec, nodesOwn_of_exec h, chain_next]

/-- So has an operation that each node has on its own. -/
theorem nodesRun_own_each {i : Instr} {f : State → State} (h : ∀ s, exec i s = .next (f s)) (ops : List NodesOp)
    (n : Nodes) :
    nodesRun (.own 0 i :: .own 1 i :: .own 2 i :: .own 3 i :: ops) n = nodesRun ops ⟨n.node.map f⟩ := by
  rw [← set_each]
  simp [nodesRun, nodesExec, nodesOwn_of_exec h, chain_next]

/-- A shared byte, and a turn of each node's sequencer. -/
def opsNodesRelay (b : Byte) : List NodesOp :=
  [.shared (.rxb b), .own 0 .step, .own 1 .step, .own 2 .step, .own 3 .step]

theorem nodesRun_relay (bytes : List Byte) (n : Nodes) :
    nodesRun (bytes.flatMap opsNodesRelay) n = .next ⟨n.node.map (bytes.foldl relay)⟩ := by
  induction bytes generalizing n with
  | nil => simp [nodesRun]
  | cons b rest ih =>
    rw [List.flatMap_cons, opsNodesRelay, List.cons_append, nodesRun, nodesExec_shared (exec_rxb b), chain_next]
    refine (nodesRun_own_each exec_step _ _).trans ((ih _).trans ?_)
    simp only [Vector.map_map]
    rfl

/-! ### The statements -/

/-- Settles O51, edge by edge: each is one run of the handler. -/
theorem edgesCollapseButAreCounted : Obligations.EdgesCollapseButAreCounted := by
  intro n s hlow hcnt
  induction n generalizing s with
  | zero => simp [Nat.mod_eq_of_lt hcnt, Nat.div_eq_of_lt hcnt]
  | succ n ih =>
    rw [List.replicate_succ, List.flatten_cons, runOps_append, runOps_opsEdge hlow, chain_next]
    have hrest := ih (edgeHandler s) hlow
    by_cases hdue : s.synccnt + 1 = 20
    · have hmod : (s.synccnt + (n + 1)) % 20 = (0 + n) % 20 := by omega
      have hdiv : decide ((s.synccnt + (n + 1)) / 20 % 2 = 1) = !decide ((0 + n) / 20 % 2 = 1) := by
        rw [← decide_not, decide_eq_decide]
        omega
      rw [edgeHandler_of_due hdue] at hrest ⊢
      rw [hrest (Nat.zero_lt_succ 19), hmod, hdiv]
      simp
    · have hnext : s.synccnt + 1 + n = s.synccnt + (n + 1) := by omega
      rw [edgeHandler_of_not_due hdue] at hrest ⊢
      rw [hrest (Nat.lt_of_le_of_ne hcnt hdue), hnext]
      simp

/-- Settles O52: a stream of drained bytes leaves all of these alone. -/
theorem byteStreamStarvesTheLoop : Obligations.ByteStreamStarvesTheLoop := by
  intro bytes s hp hroom
  have hkept := streamKept_foldl bytes hp hroom
  exact ⟨bytes.foldl relay s, runOps_opsDrained bytes s, hkept.phase.trans hp, hkept.length, hkept.syncflag,
    hkept.lastsync, hkept.cmp, hkept.actv, hkept.ovr⟩

/-- Settles O56: each node stores its slice of the bytes that all four drain. -/
theorem fourNodesTogetherHoldTheFrame : Obligations.FourNodesTogetherHoldTheFrame := by
  intro bytes n hnodes
  refine ⟨_, nodesRun_relay bytes.toList n, fun g k c hk hc => ?_⟩
  obtain ⟨hid, hp, hf, hfp, hdepth⟩ := hnodes k
  obtain ⟨last, hlast⟩ := foldl_relay_of_empty bytes.toList hp hf hdepth
  have hpos : g.val = (n.node[k]).cfg.nodeId.val * 9 + c.val := by
    rw [hid, hk, hc]
    exact (Nat.div_add_mod' g.val 9).symm
  have hnode : (n.node.map (bytes.toList.foldl relay))[k] = bytes.toList.foldl relay n.node[k] := by simp
  rw [hnode, hlast, hfp]
  exact foldl_storeByte_frame _ bytes _ c g hpos

/-- Settles O50: the first servicing resets the frame position, the frame fills the slice, the second servicing latches
and commands it. -/
theorem servicedEdgeRealignsTheNextFrame : Obligations.ServicedEdgeRealignsTheNextFrame := by
  intro bytes s hp hf hlow hdepth
  obtain ⟨last, hstream⟩ := foldl_relay_of_empty (s := (edgeHandler s).serviced) bytes.toList hp hf hdepth
  have hslice : ∀ (i : Chan) (g : Fin 36), g.val = 9 * s.cfg.nodeId.val + i.val →
      (bytes.toList.foldl (storeByte s.cfg) (0, s.pend)).2[i] = bytes[g] := fun i g hg =>
    foldl_storeByte_frame s.cfg bytes s.pend i g (hg.trans (by rw [Nat.mul_comm]))
  have hfirst := runOps_edge_service hp hf hlow
  have hlast := runOps_edge_service (s := bytes.toList.foldl relay (edgeHandler s).serviced) (by rw [hstream]; exact hp)
    (by rw [hstream]; exact hf) (by rw [hstream]; exact hlow)
  have hrun : runOps (opsEdge ++ List.replicate 13 .step ++ opsDrained bytes.toList ++
      opsEdge ++ List.replicate 13 .step) s =
        .next (edgeHandler (bytes.toList.foldl relay (edgeHandler s).serviced)).serviced := by
    rw [List.append_assoc, runOps_append, runOps_append, hfirst, chain_next, runOps_opsDrained, chain_next, hlast]
  refine ⟨_, hrun, ?_⟩
  rw [hstream]
  refine ⟨hp, rfl, hf, rfl, rfl, rfl, fun i g hg => ⟨hslice i g hg, hslice i g hg, ?_⟩⟩
  rw [← hslice i g hg]
  simp only [State.serviced, Fin.getElem_fin, Vector.getElem_ofFn]
  rfl

end Sys2Proof.Machine

/-! PROOFS. No byte value steers the block (R89, R125): an operation and its like take two states that differ only in
data to two states that differ only in data. -/

namespace Sys2Proof.Machine

section SameControl

variable {s t : State} (h : SameControl s t)

include h

/-! ### What the conditions of the operations see -/

theorem SameControl.fifoFull : s.fifoFull = t.fifoFull := by
  rw [State.fifoFull, State.fifoFull, h.fifo, h.cfg]

theorem SameControl.ovrPushed : s.ovrPushed = t.ovrPushed := by
  rw [State.ovrPushed, State.ovrPushed, h.ovr, h.fifoFull]

theorem SameControl.byteEnds : s.byteEnds = t.byteEnds := by
  rw [State.byteEnds, State.byteEnds, h.sel, h.bitcnt]

theorem SameControl.stale : s.stale = t.stale := by
  rw [State.stale, State.stale, h.now, h.lastsync]

theorem SameControl.selected : s.selected = t.selected := by
  have hempty : s.fifo.isEmpty = t.fifo.isEmpty := by
    rw [Bool.eq_iff_iff, List.isEmpty_iff_length_eq_zero, List.isEmpty_iff_length_eq_zero, h.fifo]
  rw [State.selected, State.selected, h.phase, hempty, h.syncflag]

theorem SameControl.fifoPushed_length (v w : Byte) : (s.fifoPushed v).length = (t.fifoPushed w).length := by
  rw [State.fifoPushed, State.fifoPushed, h.fifoFull]
  split
  · exact h.fifo
  · rw [List.length_append, List.length_append, h.fifo]
    rfl

/-! ### Each operation of a run -/

/-- A byte arrives on each side, whatever the two bytes are. -/
theorem SameControl.fifoPush (v w : Byte) : SameControl (fifoPush v s) (fifoPush w t) :=
  { h with fifo := h.fifoPushed_length v w, ovr := h.ovrPushed }

/-- A bit arrives on each side, whatever the two bits are. -/
theorem SameControl.serialBit (b c : Bool) : SameControl (serialBit b s) (serialBit c t) := by
  refine { h with bitcnt := ?bitcnt, fifo := ?fifo, ovr := ?ovr }
  case bitcnt => rw [serialBit_bitcnt, serialBit_bitcnt, h.sel, h.bitcnt]
  case ovr => rw [serialBit_ovr, serialBit_ovr, h.byteEnds, h.ovrPushed, h.ovr]
  case fifo =>
    rw [serialBit_fifo, serialBit_fifo, h.byteEnds]
    split
    · exact h.fifoPushed_length _ _
    · exact h.fifo

theorem SameControl.edgeHandler : SameControl (edgeHandler s) (edgeHandler t) := by
  have hdue : s.heartbeatDue = t.heartbeatDue := by rw [State.heartbeatDue, State.heartbeatDue, h.synccnt]
  refine { h with syncflag := rfl, status := ?status, synccnt := ?synccnt }
  case status => rw [edgeHandler_status, edgeHandler_status, hdue, h.status]
  case synccnt => rw [edgeHandler_synccnt, edgeHandler_synccnt, hdue, h.synccnt]

theorem SameControl.syncLevel (l : Bool) : SameControl (syncLevel l s) (syncLevel l t) := by
  have hrise : s.risingEdge l = t.risingEdge l := by rw [State.risingEdge, State.risingEdge, h.synclvl]
  unfold Machine.syncLevel
  rw [hrise]
  split
  · exact { h.edgeHandler with synclvl := rfl }
  · exact { h with synclvl := rfl }

theorem SameControl.advance (d : Nat) : SameControl (advance d s) (advance d t) := by
  rw [advance_eq d s, advance_eq d t]
  refine { h with now := ?now, cnt := ?cnt }
  case now => rw [h.now]
  case cnt => rw [advance_cnt, advance_cnt, h.cnt, h.cfg]

/-- The same channel is next, or the same phase. -/
theorem SameControl.nextChannel (p : Phase) : SameControl (nextChannel p s) (nextChannel p t) := by
  refine { h with chidx := ?chidx, phase := ?phase }
  case chidx => rw [nextChannel_chidx, nextChannel_chidx, h.chidx]
  case phase => rw [nextChannel_phase, nextChannel_phase, h.chidx, h.phase]

theorem SameControl.setPulse (i j : Chan) (us us' : Nat) : SameControl (setPulse i us s) (setPulse j us' t) :=
  { h with }

/-- A byte is popped on both sides or on neither. -/
theorem SameControl.drainByte : SameControl (drainByte s) (drainByte t) := by
  have hlen := h.fifo
  cases hs : s.fifo with
  | nil =>
    have ht : t.fifo = [] := List.eq_nil_of_length_eq_zero (by rw [← hlen, hs, List.length_nil])
    simpa only [Machine.drainByte, hs, ht] using h
  | cons b rest =>
    cases ht : t.fifo with
    | nil => simp [hs, ht] at hlen
    | cons c rest' =>
      rw [drainByte_cons hs, drainByte_cons ht]
      exact { h with fifo := by simpa [hs, ht] using hlen, lastbyte := h.now, fp := congrArg nextPosition h.fp }

/-- The same micro-step is selected, and no effect but on data depends on data. -/
theorem SameControl.sequencerStep : SameControl (sequencerStep s) (sequencerStep t) := by
  have hsel := h.selected
  cases hm : s.selected <;> rw [sequencerStep_of_selected hm, sequencerStep_of_selected (hsel.symm.trans hm)]
  case drain => exact h.drainByte
  case drainx => exact { h with phase := rfl }
  case svc => exact { h with syncflag := rfl, lastsync := h.now, chidx := rfl, phase := rfl }
  case nosvc => exact { h with phase := rfl }
  case bapply => exact (h.setPulse _ _ _ _).nextChannel .bend
  case bend => exact { h with fp := rfl, phase := rfl }
  case wdg =>
    refine { h with chidx := ?chidx, phase := ?phase }
    case chidx => simp only [microEffect, watchdogCheck_chidx, h.stale, h.chidx]
    case phase => simp only [microEffect, watchdogCheck_phase, h.stale]
  case capply => exact (h.setPulse _ _ _ _).nextChannel .cind
  case cind =>
    refine { h with status := ?status, phase := rfl }
    simp only [microEffect, driveFaultWave_status, h.cfg, h.now]

end SameControl

/-- Two operations of one kind are a byte each, a bit each, or the same one. -/
theorem sameKind_cases {i j : Instr} (h : sameKind i j = true) :
    (∃ v w, i = .rxb v ∧ j = .rxb w) ∨ (∃ b c, i = .sbit b ∧ j = .sbit c) ∨ (isRunOp i = true ∧ i = j) := by
  unfold sameKind at h
  split at h
  · exact .inl ⟨_, _, rfl, rfl⟩
  · exact .inr (.inl ⟨_, _, rfl, rfl⟩)
  · rw [Bool.and_eq_true, beq_iff_eq] at h
    exact .inr (.inr h)

theorem sameControl_exec {i j : Instr} {s t s' t' : State} (hk : sameKind i j = true) (h : SameControl s t)
    (hs : exec i s = .next s') (ht : exec j t = .next t') : SameControl s' t' := by
  obtain ⟨v, w, rfl, rfl⟩ | ⟨b, c, rfl, rfl⟩ | ⟨hi, rfl⟩ := sameKind_cases hk
  · cases hs
    cases ht
    exact h.fifoPush v w
  · cases hs
    cases ht
    exact h.serialBit b c
  · cases RunStep.of_exec hi hs with
    | rxb v => cases ht; exact h.fifoPush v v
    | sbit b => cases ht; exact h.serialBit b b
    | csa => cases ht; exact { h with bitcnt := rfl, sel := rfl }
    | csd => cases ht; exact { h with bitcnt := rfl, sel := rfl }
    | sync l => cases ht; exact h.syncLevel l
    | adv d hd =>
      rw [exec_adv hd] at ht
      cases ht
      exact h.advance d.toNat
    | step => cases ht; exact h.sequencerStep

/-! ### The statement -/

/-- Settles O57, pair of operations by pair. -/
theorem dataNeverSteersControl : Obligations.DataNeverSteersControl := by
  intro ops s t s' t' hops h hs ht
  induction ops generalizing s t with
  | nil =>
    cases hs
    cases ht
    exact h
  | cons p ops ih =>
    simp only [List.all_cons, Bool.and_eq_true] at hops
    obtain ⟨u, hu, hrest⟩ := runOps_cons_eq_next.1 hs
    obtain ⟨v, hv, hrest'⟩ := runOps_cons_eq_next.1 ht
    exact ih u v (by simpa using hops.2) (sameControl_exec hops.1.2 h hu hv) hrest hrest'

end Sys2Proof.Machine
